-- ==== Sys2Proof/Word.lean ====
section
/-! DEFINITION. The two word types of KGB-CORE (spec 00_scope.md R9): the byte of a register or memory cell,
and the 16-bit word of SP, PC and every address. -/

namespace Sys2Proof

/-- An 8-bit register or memory byte (R9). -/
abbrev Byte := BitVec 8

/-- A 16-bit register, address or immediate (R9). -/
abbrev Word := BitVec 16

end Sys2Proof
end

