-- ==== Sys2Proof/Syntax.lean ====
section
/-! DEFINITION. The instruction set of KGB-CORE: one constructor for each of the 211 rows of spec/opcode_table.json
(30_encoding.md R91, R92). The operands the opcode byte names stand in the constructor's name (`at` is the spec's
parenthesis: `ldA_atHL` is LD A,(HL)); its arguments are the operand bytes: `n` an n8 or n16, `a` an a16, `e` the
signed displacement e8, an integer (R87). -/

namespace Sys2Proof

/-- One constructor per admitted opcode, in the order of the rules that give their meanings. -/
inductive Instr where
  -- LD r,n8 (R101)
  | ldB_n8 (n : Byte)
  | ldC_n8 (n : Byte)
  | ldD_n8 (n : Byte)
  | ldE_n8 (n : Byte)
  | ldH_n8 (n : Byte)
  | ldL_n8 (n : Byte)
  | ldA_n8 (n : Byte)
  -- LD rr,n16 (R102)
  | ldBC_n16 (n : Word)
  | ldDE_n16 (n : Word)
  | ldHL_n16 (n : Word)
  | ldSP_n16 (n : Word)
  -- LD r,r' (R103)
  | ldB_B
  | ldB_C
  | ldB_D
  | ldB_E
  | ldB_H
  | ldB_L
  | ldB_A
  | ldC_B
  | ldC_C
  | ldC_D
  | ldC_E
  | ldC_H
  | ldC_L
  | ldC_A
  | ldD_B
  | ldD_C
  | ldD_D
  | ldD_E
  | ldD_H
  | ldD_L
  | ldD_A
  | ldE_B
  | ldE_C
  | ldE_D
  | ldE_E
  | ldE_H
  | ldE_L
  | ldE_A
  | ldH_B
  | ldH_C
  | ldH_D
  | ldH_E
  | ldH_H
  | ldH_L
  | ldH_A
  | ldL_B
  | ldL_C
  | ldL_D
  | ldL_E
  | ldL_H
  | ldL_L
  | ldL_A
  | ldA_B
  | ldA_C
  | ldA_D
  | ldA_E
  | ldA_H
  | ldA_L
  | ldA_A
  -- LD r,(HL) (R104)
  | ldB_atHL
  | ldC_atHL
  | ldD_atHL
  | ldE_atHL
  | ldH_atHL
  | ldL_atHL
  | ldA_atHL
  -- LD (HL),r (R105)
  | ldAtHL_B
  | ldAtHL_C
  | ldAtHL_D
  | ldAtHL_E
  | ldAtHL_H
  | ldAtHL_L
  | ldAtHL_A
  -- the accumulator moves through BC and DE (R106 to R109)
  | ldAtBC_A
  | ldAtDE_A
  | ldA_atBC
  | ldA_atDE
  -- LD (HL+),A and LD (HL-),A (R110, R111)
  | ldAtHLinc_A
  | ldAtHLdec_A
  -- the high-page moves (R112 to R115)
  | ldhAtN8_A (n : Byte)
  | ldhA_atN8 (n : Byte)
  | ldAtC_A
  | ldA_atC
  -- the absolute moves (R116, R117)
  | ldAtA16_A (a : Word)
  | ldA_atA16 (a : Word)
  -- ADD (R147 to R149)
  | addA_B
  | addA_C
  | addA_D
  | addA_E
  | addA_H
  | addA_L
  | addA_A
  | addA_atHL
  | addA_n8 (n : Byte)
  -- SUB (R150 to R152)
  | subB
  | subC
  | subD
  | subE
  | subH
  | subL
  | subA
  | subAtHL
  | subN8 (n : Byte)
  -- CP (R153 to R155)
  | cpB
  | cpC
  | cpD
  | cpE
  | cpH
  | cpL
  | cpA
  | cpAtHL
  | cpN8 (n : Byte)
  -- XOR A (R156)
  | xorA
  -- INC r (R157)
  | incB
  | incC
  | incD
  | incE
  | incH
  | incL
  | incA
  -- DEC r (R158)
  | decB
  | decC
  | decD
  | decE
  | decH
  | decL
  | decA
  -- INC rr (R159)
  | incBC
  | incDE
  | incHL
  | incSP
  -- DEC rr (R160)
  | decBC
  | decDE
  | decHL
  | decSP
  -- the relative jumps (R174 to R176)
  | jr (e : Int)
  | jrNZ (e : Int)
  | jrZ (e : Int)
  -- CALL and RET (R177, R178)
  | call (a : Word)
  | ret
  -- PUSH rr (R179)
  | pushBC
  | pushDE
  | pushHL
  -- POP rr (R180)
  | popBC
  | popDE
  | popHL
  -- RLA (R190)
  | rla
  -- RL r (R191)
  | rlB
  | rlC
  | rlD
  | rlE
  | rlH
  | rlL
  | rlA
  -- BIT b,r (R192)
  | bit0_B
  | bit0_C
  | bit0_D
  | bit0_E
  | bit0_H
  | bit0_L
  | bit0_A
  | bit1_B
  | bit1_C
  | bit1_D
  | bit1_E
  | bit1_H
  | bit1_L
  | bit1_A
  | bit2_B
  | bit2_C
  | bit2_D
  | bit2_E
  | bit2_H
  | bit2_L
  | bit2_A
  | bit3_B
  | bit3_C
  | bit3_D
  | bit3_E
  | bit3_H
  | bit3_L
  | bit3_A
  | bit4_B
  | bit4_C
  | bit4_D
  | bit4_E
  | bit4_H
  | bit4_L
  | bit4_A
  | bit5_B
  | bit5_C
  | bit5_D
  | bit5_E
  | bit5_H
  | bit5_L
  | bit5_A
  | bit6_B
  | bit6_C
  | bit6_D
  | bit6_E
  | bit6_H
  | bit6_L
  | bit6_A
  | bit7_B
  | bit7_C
  | bit7_D
  | bit7_E
  | bit7_H
  | bit7_L
  | bit7_A
  deriving DecidableEq, Repr

end Sys2Proof
end

