-- ==== Sys2Proof/Form.lean ====
section
/-! DEFINITION. The registers an opcode byte can name (30_encoding.md R84, R85), and the 41 instruction FORMS, which are
the rules' own headings (one form per rule of 40_loads.md to 43_rotate_bit.md and operand kind). `Instr.form` reads an
instruction's form off its name and `Form.instr` goes back; statements and the encoder speak of a whole family through
them, and Laws/PerInstr.lean proves that every one of the 211 constructors is the instruction of its form. -/

namespace Sys2Proof

/-- The seven general registers (10_state.md R20). -/
inductive Reg where
  | b | c | d | e | h | l | a
  deriving DecidableEq, Repr

/-- The pairs that PUSH and POP name and that address memory (R21, R85: pair code 3 would be AF and is not admitted). -/
inductive RegPair where
  | bc | de | hl
  deriving DecidableEq, Repr

/-- The 16-bit operands of LD rr,n16, INC rr and DEC rr (R85). -/
inductive LoadPair where
  | bc | de | hl | sp
  deriving DecidableEq, Repr

/-- An instruction seen as its rule sees it: the rule's heading with its operands. -/
inductive Form where
  | ldReg_n8 (r : Reg) (n : Byte)
  | ldPair_n16 (p : LoadPair) (n : Word)
  | ldReg_reg (dst src : Reg)
  | ldReg_atHL (r : Reg)
  | ldAtHL_reg (r : Reg)
  | ldAtBC_A
  | ldAtDE_A
  | ldA_atBC
  | ldA_atDE
  | ldAtHLinc_A
  | ldAtHLdec_A
  | ldhAtN8_A (n : Byte)
  | ldhA_atN8 (n : Byte)
  | ldAtC_A
  | ldA_atC
  | ldAtA16_A (a : Word)
  | ldA_atA16 (a : Word)
  | addA_reg (r : Reg)
  | addA_atHL
  | addA_n8 (n : Byte)
  | subReg (r : Reg)
  | subAtHL
  | subN8 (n : Byte)
  | cpReg (r : Reg)
  | cpAtHL
  | cpN8 (n : Byte)
  | xorA
  | incReg (r : Reg)
  | decReg (r : Reg)
  | incPair (p : LoadPair)
  | decPair (p : LoadPair)
  | jr (e : Int)
  | jrNZ (e : Int)
  | jrZ (e : Int)
  | call (a : Word)
  | ret
  | pushPair (p : RegPair)
  | popPair (p : RegPair)
  | rla
  | rlReg (r : Reg)
  | bitReg (b : Fin 8) (r : Reg)
  deriving DecidableEq, Repr

/-- The form of each instruction. -/
def Instr.form : Instr → Form
  | .ldB_n8 n => .ldReg_n8 .b n
  | .ldC_n8 n => .ldReg_n8 .c n
  | .ldD_n8 n => .ldReg_n8 .d n
  | .ldE_n8 n => .ldReg_n8 .e n
  | .ldH_n8 n => .ldReg_n8 .h n
  | .ldL_n8 n => .ldReg_n8 .l n
  | .ldA_n8 n => .ldReg_n8 .a n
  | .ldBC_n16 n => .ldPair_n16 .bc n
  | .ldDE_n16 n => .ldPair_n16 .de n
  | .ldHL_n16 n => .ldPair_n16 .hl n
  | .ldSP_n16 n => .ldPair_n16 .sp n
  | .ldB_B => .ldReg_reg .b .b
  | .ldB_C => .ldReg_reg .b .c
  | .ldB_D => .ldReg_reg .b .d
  | .ldB_E => .ldReg_reg .b .e
  | .ldB_H => .ldReg_reg .b .h
  | .ldB_L => .ldReg_reg .b .l
  | .ldB_A => .ldReg_reg .b .a
  | .ldC_B => .ldReg_reg .c .b
  | .ldC_C => .ldReg_reg .c .c
  | .ldC_D => .ldReg_reg .c .d
  | .ldC_E => .ldReg_reg .c .e
  | .ldC_H => .ldReg_reg .c .h
  | .ldC_L => .ldReg_reg .c .l
  | .ldC_A => .ldReg_reg .c .a
  | .ldD_B => .ldReg_reg .d .b
  | .ldD_C => .ldReg_reg .d .c
  | .ldD_D => .ldReg_reg .d .d
  | .ldD_E => .ldReg_reg .d .e
  | .ldD_H => .ldReg_reg .d .h
  | .ldD_L => .ldReg_reg .d .l
  | .ldD_A => .ldReg_reg .d .a
  | .ldE_B => .ldReg_reg .e .b
  | .ldE_C => .ldReg_reg .e .c
  | .ldE_D => .ldReg_reg .e .d
  | .ldE_E => .ldReg_reg .e .e
  | .ldE_H => .ldReg_reg .e .h
  | .ldE_L => .ldReg_reg .e .l
  | .ldE_A => .ldReg_reg .e .a
  | .ldH_B => .ldReg_reg .h .b
  | .ldH_C => .ldReg_reg .h .c
  | .ldH_D => .ldReg_reg .h .d
  | .ldH_E => .ldReg_reg .h .e
  | .ldH_H => .ldReg_reg .h .h
  | .ldH_L => .ldReg_reg .h .l
  | .ldH_A => .ldReg_reg .h .a
  | .ldL_B => .ldReg_reg .l .b
  | .ldL_C => .ldReg_reg .l .c
  | .ldL_D => .ldReg_reg .l .d
  | .ldL_E => .ldReg_reg .l .e
  | .ldL_H => .ldReg_reg .l .h
  | .ldL_L => .ldReg_reg .l .l
  | .ldL_A => .ldReg_reg .l .a
  | .ldA_B => .ldReg_reg .a .b
  | .ldA_C => .ldReg_reg .a .c
  | .ldA_D => .ldReg_reg .a .d
  | .ldA_E => .ldReg_reg .a .e
  | .ldA_H => .ldReg_reg .a .h
  | .ldA_L => .ldReg_reg .a .l
  | .ldA_A => .ldReg_reg .a .a
  | .ldB_atHL => .ldReg_atHL .b
  | .ldC_atHL => .ldReg_atHL .c
  | .ldD_atHL => .ldReg_atHL .d
  | .ldE_atHL => .ldReg_atHL .e
  | .ldH_atHL => .ldReg_atHL .h
  | .ldL_atHL => .ldReg_atHL .l
  | .ldA_atHL => .ldReg_atHL .a
  | .ldAtHL_B => .ldAtHL_reg .b
  | .ldAtHL_C => .ldAtHL_reg .c
  | .ldAtHL_D => .ldAtHL_reg .d
  | .ldAtHL_E => .ldAtHL_reg .e
  | .ldAtHL_H => .ldAtHL_reg .h
  | .ldAtHL_L => .ldAtHL_reg .l
  | .ldAtHL_A => .ldAtHL_reg .a
  | .ldAtBC_A => .ldAtBC_A
  | .ldAtDE_A => .ldAtDE_A
  | .ldA_atBC => .ldA_atBC
  | .ldA_atDE => .ldA_atDE
  | .ldAtHLinc_A => .ldAtHLinc_A
  | .ldAtHLdec_A => .ldAtHLdec_A
  | .ldhAtN8_A n => .ldhAtN8_A n
  | .ldhA_atN8 n => .ldhA_atN8 n
  | .ldAtC_A => .ldAtC_A
  | .ldA_atC => .ldA_atC
  | .ldAtA16_A a => .ldAtA16_A a
  | .ldA_atA16 a => .ldA_atA16 a
  | .addA_B => .addA_reg .b
  | .addA_C => .addA_reg .c
  | .addA_D => .addA_reg .d
  | .addA_E => .addA_reg .e
  | .addA_H => .addA_reg .h
  | .addA_L => .addA_reg .l
  | .addA_A => .addA_reg .a
  | .addA_atHL => .addA_atHL
  | .addA_n8 n => .addA_n8 n
  | .subB => .subReg .b
  | .subC => .subReg .c
  | .subD => .subReg .d
  | .subE => .subReg .e
  | .subH => .subReg .h
  | .subL => .subReg .l
  | .subA => .subReg .a
  | .subAtHL => .subAtHL
  | .subN8 n => .subN8 n
  | .cpB => .cpReg .b
  | .cpC => .cpReg .c
  | .cpD => .cpReg .d
  | .cpE => .cpReg .e
  | .cpH => .cpReg .h
  | .cpL => .cpReg .l
  | .cpA => .cpReg .a
  | .cpAtHL => .cpAtHL
  | .cpN8 n => .cpN8 n
  | .xorA => .xorA
  | .incB => .incReg .b
  | .incC => .incReg .c
  | .incD => .incReg .d
  | .incE => .incReg .e
  | .incH => .incReg .h
  | .incL => .incReg .l
  | .incA => .incReg .a
  | .decB => .decReg .b
  | .decC => .decReg .c
  | .decD => .decReg .d
  | .decE => .decReg .e
  | .decH => .decReg .h
  | .decL => .decReg .l
  | .decA => .decReg .a
  | .incBC => .incPair .bc
  | .incDE => .incPair .de
  | .incHL => .incPair .hl
  | .incSP => .incPair .sp
  | .decBC => .decPair .bc
  | .decDE => .decPair .de
  | .decHL => .decPair .hl
  | .decSP => .decPair .sp
  | .jr e => .jr e
  | .jrNZ e => .jrNZ e
  | .jrZ e => .jrZ e
  | .call a => .call a
  | .ret => .ret
  | .pushBC => .pushPair .bc
  | .pushDE => .pushPair .de
  | .pushHL => .pushPair .hl
  | .popBC => .popPair .bc
  | .popDE => .popPair .de
  | .popHL => .popPair .hl
  | .rla => .rla
  | .rlB => .rlReg .b
  | .rlC => .rlReg .c
  | .rlD => .rlReg .d
  | .rlE => .rlReg .e
  | .rlH => .rlReg .h
  | .rlL => .rlReg .l
  | .rlA => .rlReg .a
  | .bit0_B => .bitReg 0 .b
  | .bit0_C => .bitReg 0 .c
  | .bit0_D => .bitReg 0 .d
  | .bit0_E => .bitReg 0 .e
  | .bit0_H => .bitReg 0 .h
  | .bit0_L => .bitReg 0 .l
  | .bit0_A => .bitReg 0 .a
  | .bit1_B => .bitReg 1 .b
  | .bit1_C => .bitReg 1 .c
  | .bit1_D => .bitReg 1 .d
  | .bit1_E => .bitReg 1 .e
  | .bit1_H => .bitReg 1 .h
  | .bit1_L => .bitReg 1 .l
  | .bit1_A => .bitReg 1 .a
  | .bit2_B => .bitReg 2 .b
  | .bit2_C => .bitReg 2 .c
  | .bit2_D => .bitReg 2 .d
  | .bit2_E => .bitReg 2 .e
  | .bit2_H => .bitReg 2 .h
  | .bit2_L => .bitReg 2 .l
  | .bit2_A => .bitReg 2 .a
  | .bit3_B => .bitReg 3 .b
  | .bit3_C => .bitReg 3 .c
  | .bit3_D => .bitReg 3 .d
  | .bit3_E => .bitReg 3 .e
  | .bit3_H => .bitReg 3 .h
  | .bit3_L => .bitReg 3 .l
  | .bit3_A => .bitReg 3 .a
  | .bit4_B => .bitReg 4 .b
  | .bit4_C => .bitReg 4 .c
  | .bit4_D => .bitReg 4 .d
  | .bit4_E => .bitReg 4 .e
  | .bit4_H => .bitReg 4 .h
  | .bit4_L => .bitReg 4 .l
  | .bit4_A => .bitReg 4 .a
  | .bit5_B => .bitReg 5 .b
  | .bit5_C => .bitReg 5 .c
  | .bit5_D => .bitReg 5 .d
  | .bit5_E => .bitReg 5 .e
  | .bit5_H => .bitReg 5 .h
  | .bit5_L => .bitReg 5 .l
  | .bit5_A => .bitReg 5 .a
  | .bit6_B => .bitReg 6 .b
  | .bit6_C => .bitReg 6 .c
  | .bit6_D => .bitReg 6 .d
  | .bit6_E => .bitReg 6 .e
  | .bit6_H => .bitReg 6 .h
  | .bit6_L => .bitReg 6 .l
  | .bit6_A => .bitReg 6 .a
  | .bit7_B => .bitReg 7 .b
  | .bit7_C => .bitReg 7 .c
  | .bit7_D => .bitReg 7 .d
  | .bit7_E => .bitReg 7 .e
  | .bit7_H => .bitReg 7 .h
  | .bit7_L => .bitReg 7 .l
  | .bit7_A => .bitReg 7 .a

/-- The instruction of each form. -/
def Form.instr : Form → Instr
  | .ldReg_n8 .b n => .ldB_n8 n
  | .ldReg_n8 .c n => .ldC_n8 n
  | .ldReg_n8 .d n => .ldD_n8 n
  | .ldReg_n8 .e n => .ldE_n8 n
  | .ldReg_n8 .h n => .ldH_n8 n
  | .ldReg_n8 .l n => .ldL_n8 n
  | .ldReg_n8 .a n => .ldA_n8 n
  | .ldPair_n16 .bc n => .ldBC_n16 n
  | .ldPair_n16 .de n => .ldDE_n16 n
  | .ldPair_n16 .hl n => .ldHL_n16 n
  | .ldPair_n16 .sp n => .ldSP_n16 n
  | .ldReg_reg .b .b => .ldB_B
  | .ldReg_reg .b .c => .ldB_C
  | .ldReg_reg .b .d => .ldB_D
  | .ldReg_reg .b .e => .ldB_E
  | .ldReg_reg .b .h => .ldB_H
  | .ldReg_reg .b .l => .ldB_L
  | .ldReg_reg .b .a => .ldB_A
  | .ldReg_reg .c .b => .ldC_B
  | .ldReg_reg .c .c => .ldC_C
  | .ldReg_reg .c .d => .ldC_D
  | .ldReg_reg .c .e => .ldC_E
  | .ldReg_reg .c .h => .ldC_H
  | .ldReg_reg .c .l => .ldC_L
  | .ldReg_reg .c .a => .ldC_A
  | .ldReg_reg .d .b => .ldD_B
  | .ldReg_reg .d .c => .ldD_C
  | .ldReg_reg .d .d => .ldD_D
  | .ldReg_reg .d .e => .ldD_E
  | .ldReg_reg .d .h => .ldD_H
  | .ldReg_reg .d .l => .ldD_L
  | .ldReg_reg .d .a => .ldD_A
  | .ldReg_reg .e .b => .ldE_B
  | .ldReg_reg .e .c => .ldE_C
  | .ldReg_reg .e .d => .ldE_D
  | .ldReg_reg .e .e => .ldE_E
  | .ldReg_reg .e .h => .ldE_H
  | .ldReg_reg .e .l => .ldE_L
  | .ldReg_reg .e .a => .ldE_A
  | .ldReg_reg .h .b => .ldH_B
  | .ldReg_reg .h .c => .ldH_C
  | .ldReg_reg .h .d => .ldH_D
  | .ldReg_reg .h .e => .ldH_E
  | .ldReg_reg .h .h => .ldH_H
  | .ldReg_reg .h .l => .ldH_L
  | .ldReg_reg .h .a => .ldH_A
  | .ldReg_reg .l .b => .ldL_B
  | .ldReg_reg .l .c => .ldL_C
  | .ldReg_reg .l .d => .ldL_D
  | .ldReg_reg .l .e => .ldL_E
  | .ldReg_reg .l .h => .ldL_H
  | .ldReg_reg .l .l => .ldL_L
  | .ldReg_reg .l .a => .ldL_A
  | .ldReg_reg .a .b => .ldA_B
  | .ldReg_reg .a .c => .ldA_C
  | .ldReg_reg .a .d => .ldA_D
  | .ldReg_reg .a .e => .ldA_E
  | .ldReg_reg .a .h => .ldA_H
  | .ldReg_reg .a .l => .ldA_L
  | .ldReg_reg .a .a => .ldA_A
  | .ldReg_atHL .b => .ldB_atHL
  | .ldReg_atHL .c => .ldC_atHL
  | .ldReg_atHL .d => .ldD_atHL
  | .ldReg_atHL .e => .ldE_atHL
  | .ldReg_atHL .h => .ldH_atHL
  | .ldReg_atHL .l => .ldL_atHL
  | .ldReg_atHL .a => .ldA_atHL
  | .ldAtHL_reg .b => .ldAtHL_B
  | .ldAtHL_reg .c => .ldAtHL_C
  | .ldAtHL_reg .d => .ldAtHL_D
  | .ldAtHL_reg .e => .ldAtHL_E
  | .ldAtHL_reg .h => .ldAtHL_H
  | .ldAtHL_reg .l => .ldAtHL_L
  | .ldAtHL_reg .a => .ldAtHL_A
  | .ldAtBC_A => .ldAtBC_A
  | .ldAtDE_A => .ldAtDE_A
  | .ldA_atBC => .ldA_atBC
  | .ldA_atDE => .ldA_atDE
  | .ldAtHLinc_A => .ldAtHLinc_A
  | .ldAtHLdec_A => .ldAtHLdec_A
  | .ldhAtN8_A n => .ldhAtN8_A n
  | .ldhA_atN8 n => .ldhA_atN8 n
  | .ldAtC_A => .ldAtC_A
  | .ldA_atC => .ldA_atC
  | .ldAtA16_A a => .ldAtA16_A a
  | .ldA_atA16 a => .ldA_atA16 a
  | .addA_reg .b => .addA_B
  | .addA_reg .c => .addA_C
  | .addA_reg .d => .addA_D
  | .addA_reg .e => .addA_E
  | .addA_reg .h => .addA_H
  | .addA_reg .l => .addA_L
  | .addA_reg .a => .addA_A
  | .addA_atHL => .addA_atHL
  | .addA_n8 n => .addA_n8 n
  | .subReg .b => .subB
  | .subReg .c => .subC
  | .subReg .d => .subD
  | .subReg .e => .subE
  | .subReg .h => .subH
  | .subReg .l => .subL
  | .subReg .a => .subA
  | .subAtHL => .subAtHL
  | .subN8 n => .subN8 n
  | .cpReg .b => .cpB
  | .cpReg .c => .cpC
  | .cpReg .d => .cpD
  | .cpReg .e => .cpE
  | .cpReg .h => .cpH
  | .cpReg .l => .cpL
  | .cpReg .a => .cpA
  | .cpAtHL => .cpAtHL
  | .cpN8 n => .cpN8 n
  | .xorA => .xorA
  | .incReg .b => .incB
  | .incReg .c => .incC
  | .incReg .d => .incD
  | .incReg .e => .incE
  | .incReg .h => .incH
  | .incReg .l => .incL
  | .incReg .a => .incA
  | .decReg .b => .decB
  | .decReg .c => .decC
  | .decReg .d => .decD
  | .decReg .e => .decE
  | .decReg .h => .decH
  | .decReg .l => .decL
  | .decReg .a => .decA
  | .incPair .bc => .incBC
  | .incPair .de => .incDE
  | .incPair .hl => .incHL
  | .incPair .sp => .incSP
  | .decPair .bc => .decBC
  | .decPair .de => .decDE
  | .decPair .hl => .decHL
  | .decPair .sp => .decSP
  | .jr e => .jr e
  | .jrNZ e => .jrNZ e
  | .jrZ e => .jrZ e
  | .call a => .call a
  | .ret => .ret
  | .pushPair .bc => .pushBC
  | .pushPair .de => .pushDE
  | .pushPair .hl => .pushHL
  | .popPair .bc => .popBC
  | .popPair .de => .popDE
  | .popPair .hl => .popHL
  | .rla => .rla
  | .rlReg .b => .rlB
  | .rlReg .c => .rlC
  | .rlReg .d => .rlD
  | .rlReg .e => .rlE
  | .rlReg .h => .rlH
  | .rlReg .l => .rlL
  | .rlReg .a => .rlA
  | .bitReg 0 .b => .bit0_B
  | .bitReg 0 .c => .bit0_C
  | .bitReg 0 .d => .bit0_D
  | .bitReg 0 .e => .bit0_E
  | .bitReg 0 .h => .bit0_H
  | .bitReg 0 .l => .bit0_L
  | .bitReg 0 .a => .bit0_A
  | .bitReg 1 .b => .bit1_B
  | .bitReg 1 .c => .bit1_C
  | .bitReg 1 .d => .bit1_D
  | .bitReg 1 .e => .bit1_E
  | .bitReg 1 .h => .bit1_H
  | .bitReg 1 .l => .bit1_L
  | .bitReg 1 .a => .bit1_A
  | .bitReg 2 .b => .bit2_B
  | .bitReg 2 .c => .bit2_C
  | .bitReg 2 .d => .bit2_D
  | .bitReg 2 .e => .bit2_E
  | .bitReg 2 .h => .bit2_H
  | .bitReg 2 .l => .bit2_L
  | .bitReg 2 .a => .bit2_A
  | .bitReg 3 .b => .bit3_B
  | .bitReg 3 .c => .bit3_C
  | .bitReg 3 .d => .bit3_D
  | .bitReg 3 .e => .bit3_E
  | .bitReg 3 .h => .bit3_H
  | .bitReg 3 .l => .bit3_L
  | .bitReg 3 .a => .bit3_A
  | .bitReg 4 .b => .bit4_B
  | .bitReg 4 .c => .bit4_C
  | .bitReg 4 .d => .bit4_D
  | .bitReg 4 .e => .bit4_E
  | .bitReg 4 .h => .bit4_H
  | .bitReg 4 .l => .bit4_L
  | .bitReg 4 .a => .bit4_A
  | .bitReg 5 .b => .bit5_B
  | .bitReg 5 .c => .bit5_C
  | .bitReg 5 .d => .bit5_D
  | .bitReg 5 .e => .bit5_E
  | .bitReg 5 .h => .bit5_H
  | .bitReg 5 .l => .bit5_L
  | .bitReg 5 .a => .bit5_A
  | .bitReg 6 .b => .bit6_B
  | .bitReg 6 .c => .bit6_C
  | .bitReg 6 .d => .bit6_D
  | .bitReg 6 .e => .bit6_E
  | .bitReg 6 .h => .bit6_H
  | .bitReg 6 .l => .bit6_L
  | .bitReg 6 .a => .bit6_A
  | .bitReg 7 .b => .bit7_B
  | .bitReg 7 .c => .bit7_C
  | .bitReg 7 .d => .bit7_D
  | .bitReg 7 .e => .bit7_E
  | .bitReg 7 .h => .bit7_H
  | .bitReg 7 .l => .bit7_L
  | .bitReg 7 .a => .bit7_A

end Sys2Proof
end

