-- ==== Sys2Proof/WellFormed.lean ====
section
/-! DEFINITION. Which terms of Instr stand for an instruction. Every operand but one is a bit vector of its encoded width,
so the one check is that a relative jump's displacement is the reading of a byte: e8 lies in -128..127 (30_encoding.md
R87, R94; 42_control_stack.md R174 to R176). -/

namespace Sys2Proof

/-- e8 = sext_16(b1) for some byte b1 exactly when it lies in -128..127 (00_scope.md R12). -/
def displacementFits (e : Int) : Bool := decide (-128 ≤ e) && decide (e ≤ 127)

/-- The check of one form. -/
def Form.wellFormed : Form → Bool
  | .ldReg_n8 _ _ => true
  | .ldPair_n16 _ _ => true
  | .ldReg_reg _ _ => true
  | .ldReg_atHL _ => true
  | .ldAtHL_reg _ => true
  | .ldAtBC_A => true
  | .ldAtDE_A => true
  | .ldA_atBC => true
  | .ldA_atDE => true
  | .ldAtHLinc_A => true
  | .ldAtHLdec_A => true
  | .ldhAtN8_A _ => true
  | .ldhA_atN8 _ => true
  | .ldAtC_A => true
  | .ldA_atC => true
  | .ldAtA16_A _ => true
  | .ldA_atA16 _ => true
  | .addA_reg _ => true
  | .addA_atHL => true
  | .addA_n8 _ => true
  | .subReg _ => true
  | .subAtHL => true
  | .subN8 _ => true
  | .cpReg _ => true
  | .cpAtHL => true
  | .cpN8 _ => true
  | .xorA => true
  | .incReg _ => true
  | .decReg _ => true
  | .incPair _ => true
  | .decPair _ => true
  | .jr e => displacementFits e
  | .jrNZ e => displacementFits e
  | .jrZ e => displacementFits e
  | .call _ => true
  | .ret => true
  | .pushPair _ => true
  | .popPair _ => true
  | .rla => true
  | .rlReg _ => true
  | .bitReg _ _ => true

/-- The check of an instruction. -/
def Instr.wellFormed (i : Instr) : Bool := i.form.wellFormed

/-- An instruction that some bytes decode to. -/
abbrev WellFormed (i : Instr) : Prop := i.wellFormed = true

end Sys2Proof
end

