-- ==== Sys2Proof/Decode.lean ====
section
/-! DEFINITION. Decoding (30_encoding.md): the two opcode maps of R91 and R92 written cell by cell, one decoder over any
source of bytes, and an encoder written from the field patterns of R83 to R88 and NOT from the maps, so that the
two agreeing is a fact worth proving. Every opcode byte but 0xCB is SM83 encoding by the spec's own account
(93_implementation_defined.md G1, G2). -/

namespace Sys2Proof

/-! ## Bytes and words (R12, R55, R87) -/

/-- The low byte of a word, `v & 0xFF`. -/
def loByte (v : Word) : Byte := BitVec.ofNat 8 (v.toNat % 256)

/-- The high byte of a word, `v >> 8`. -/
def hiByte (v : Word) : Byte := BitVec.ofNat 8 (v.toNat / 256)

/-- `hi:lo`, the word `hi*0x100 + lo` (R12). -/
def wordOf (hi lo : Byte) : Word := BitVec.ofNat 16 (hi.toNat * 256 + lo.toNat)

/-- `sext_16(b)`, the byte read in two's complement: b below 0x80, else b - 256 (R12). -/
def sext (b : Byte) : Int := if b.toNat < 0x80 then (b.toNat : Int) else (b.toNat : Int) - 256

/-- The byte whose `sext` is e, for e in -128..127: e mod 256. -/
def displacementByte (e : Int) : Byte := BitVec.ofInt 8 e

/-! ## The decode tables (R89) -/

/-- An entry of the primary table: the instruction, waiting for the operand bytes of its format (R82). -/
inductive Handler where
  | p1 (i : Instr)
  | n8 (f : Byte → Instr)
  | e8 (f : Int → Instr)
  | p3 (f : Word → Instr)

/-- A cell of an opcode map; `none` is the map's dash, an unsupported byte. -/
abbrev Cell := Option Handler

/-- An unsupported cell. -/
abbrev un : Cell := none
/-- A cell of format P1. -/
abbrev p1 (i : Instr) : Cell := some (.p1 i)
/-- A cell of format P2-n8. -/
abbrev n8 (f : Byte → Instr) : Cell := some (.n8 f)
/-- A cell of format P2-e8. -/
abbrev e8 (f : Int → Instr) : Cell := some (.e8 f)
/-- A cell of format P3. -/
abbrev p3 (f : Word → Instr) : Cell := some (.p3 f)

/-- Row 0x of the primary map (R91). -/
def primaryRow0 : List Cell :=
  [un, p3 .ldBC_n16, p1 .ldAtBC_A, p1 .incBC, p1 .incB, p1 .decB, n8 .ldB_n8, un,
   un, un, p1 .ldA_atBC, p1 .decBC, p1 .incC, p1 .decC, n8 .ldC_n8, un]

/-- Row 1x of the primary map (R91). -/
def primaryRow1 : List Cell :=
  [un, p3 .ldDE_n16, p1 .ldAtDE_A, p1 .incDE, p1 .incD, p1 .decD, n8 .ldD_n8, p1 .rla,
   e8 .jr, un, p1 .ldA_atDE, p1 .decDE, p1 .incE, p1 .decE, n8 .ldE_n8, un]

/-- Row 2x of the primary map (R91). -/
def primaryRow2 : List Cell :=
  [e8 .jrNZ, p3 .ldHL_n16, p1 .ldAtHLinc_A, p1 .incHL, p1 .incH, p1 .decH, n8 .ldH_n8, un,
   e8 .jrZ, un, un, p1 .decHL, p1 .incL, p1 .decL, n8 .ldL_n8, un]

/-- Row 3x of the primary map (R91). -/
def primaryRow3 : List Cell :=
  [un, p3 .ldSP_n16, p1 .ldAtHLdec_A, p1 .incSP, un, un, un, un,
   un, un, un, p1 .decSP, p1 .incA, p1 .decA, n8 .ldA_n8, un]

/-- Row 4x of the primary map (R91). -/
def primaryRow4 : List Cell :=
  [p1 .ldB_B, p1 .ldB_C, p1 .ldB_D, p1 .ldB_E, p1 .ldB_H, p1 .ldB_L, p1 .ldB_atHL, p1 .ldB_A,
   p1 .ldC_B, p1 .ldC_C, p1 .ldC_D, p1 .ldC_E, p1 .ldC_H, p1 .ldC_L, p1 .ldC_atHL, p1 .ldC_A]

/-- Row 5x of the primary map (R91). -/
def primaryRow5 : List Cell :=
  [p1 .ldD_B, p1 .ldD_C, p1 .ldD_D, p1 .ldD_E, p1 .ldD_H, p1 .ldD_L, p1 .ldD_atHL, p1 .ldD_A,
   p1 .ldE_B, p1 .ldE_C, p1 .ldE_D, p1 .ldE_E, p1 .ldE_H, p1 .ldE_L, p1 .ldE_atHL, p1 .ldE_A]

/-- Row 6x of the primary map (R91). -/
def primaryRow6 : List Cell :=
  [p1 .ldH_B, p1 .ldH_C, p1 .ldH_D, p1 .ldH_E, p1 .ldH_H, p1 .ldH_L, p1 .ldH_atHL, p1 .ldH_A,
   p1 .ldL_B, p1 .ldL_C, p1 .ldL_D, p1 .ldL_E, p1 .ldL_H, p1 .ldL_L, p1 .ldL_atHL, p1 .ldL_A]

/-- Row 7x of the primary map (R91). -/
def primaryRow7 : List Cell :=
  [p1 .ldAtHL_B, p1 .ldAtHL_C, p1 .ldAtHL_D, p1 .ldAtHL_E, p1 .ldAtHL_H, p1 .ldAtHL_L, un, p1 .ldAtHL_A,
   p1 .ldA_B, p1 .ldA_C, p1 .ldA_D, p1 .ldA_E, p1 .ldA_H, p1 .ldA_L, p1 .ldA_atHL, p1 .ldA_A]

/-- Row 8x of the primary map (R91). -/
def primaryRow8 : List Cell :=
  [p1 .addA_B, p1 .addA_C, p1 .addA_D, p1 .addA_E, p1 .addA_H, p1 .addA_L, p1 .addA_atHL, p1 .addA_A,
   un, un, un, un, un, un, un, un]

/-- Row 9x of the primary map (R91). -/
def primaryRow9 : List Cell :=
  [p1 .subB, p1 .subC, p1 .subD, p1 .subE, p1 .subH, p1 .subL, p1 .subAtHL, p1 .subA,
   un, un, un, un, un, un, un, un]

/-- Row Ax of the primary map (R91). -/
def primaryRowA : List Cell :=
  [un, un, un, un, un, un, un, un,
   un, un, un, un, un, un, un, p1 .xorA]

/-- Row Bx of the primary map (R91). -/
def primaryRowB : List Cell :=
  [un, un, un, un, un, un, un, un,
   p1 .cpB, p1 .cpC, p1 .cpD, p1 .cpE, p1 .cpH, p1 .cpL, p1 .cpAtHL, p1 .cpA]

/-- Row Cx of the primary map (R91). -/
def primaryRowC : List Cell :=
  [un, p1 .popBC, un, un, un, p1 .pushBC, n8 .addA_n8, un,
   un, p1 .ret, un, un, un, p3 .call, un, un]

/-- Row Dx of the primary map (R91). -/
def primaryRowD : List Cell :=
  [un, p1 .popDE, un, un, un, p1 .pushDE, n8 .subN8, un,
   un, un, un, un, un, un, un, un]

/-- Row Ex of the primary map (R91). -/
def primaryRowE : List Cell :=
  [n8 .ldhAtN8_A, p1 .popHL, p1 .ldAtC_A, un, un, p1 .pushHL, un, un,
   un, un, p3 .ldAtA16_A, un, un, un, un, un]

/-- Row Fx of the primary map (R91). -/
def primaryRowF : List Cell :=
  [n8 .ldhA_atN8, un, p1 .ldA_atC, un, un, un, un, un,
   un, un, p3 .ldA_atA16, un, un, un, n8 .cpN8, un]

/-- The primary map: sixteen rows by the high nibble, sixteen cells by the low one (R91). The cell of the 0xCB byte is
never consulted. -/
def primaryMap : List (List Cell) :=
  [primaryRow0, primaryRow1, primaryRow2, primaryRow3, primaryRow4, primaryRow5, primaryRow6, primaryRow7,
   primaryRow8, primaryRow9, primaryRowA, primaryRowB, primaryRowC, primaryRowD, primaryRowE, primaryRowF]

/-- A map's cell for a byte. -/
def mapCell {α : Type} (m : List (List (Option α))) (op : Byte) : Option α :=
  ((m.getD (op.toNat / 16) []).getD (op.toNat % 16) none)

/-- `PRIMARY[op]` (R89). -/
def primary (op : Byte) : Option Handler := mapCell primaryMap op

/-- Row 1x of the CB map (R92). -/
def cbRow1 : List (Option Instr) :=
  [some .rlB, some .rlC, some .rlD, some .rlE, some .rlH, some .rlL, none, some .rlA,
   none, none, none, none, none, none, none, none]

/-- Row 4x of the CB map (R92). -/
def cbRow4 : List (Option Instr) :=
  [some .bit0_B, some .bit0_C, some .bit0_D, some .bit0_E, some .bit0_H, some .bit0_L, none, some .bit0_A,
   some .bit1_B, some .bit1_C, some .bit1_D, some .bit1_E, some .bit1_H, some .bit1_L, none, some .bit1_A]

/-- Row 5x of the CB map (R92). -/
def cbRow5 : List (Option Instr) :=
  [some .bit2_B, some .bit2_C, some .bit2_D, some .bit2_E, some .bit2_H, some .bit2_L, none, some .bit2_A,
   some .bit3_B, some .bit3_C, some .bit3_D, some .bit3_E, some .bit3_H, some .bit3_L, none, some .bit3_A]

/-- Row 6x of the CB map (R92). -/
def cbRow6 : List (Option Instr) :=
  [some .bit4_B, some .bit4_C, some .bit4_D, some .bit4_E, some .bit4_H, some .bit4_L, none, some .bit4_A,
   some .bit5_B, some .bit5_C, some .bit5_D, some .bit5_E, some .bit5_H, some .bit5_L, none, some .bit5_A]

/-- Row 7x of the CB map (R92). -/
def cbRow7 : List (Option Instr) :=
  [some .bit6_B, some .bit6_C, some .bit6_D, some .bit6_E, some .bit6_H, some .bit6_L, none, some .bit6_A,
   some .bit7_B, some .bit7_C, some .bit7_D, some .bit7_E, some .bit7_H, some .bit7_L, none, some .bit7_A]

/-- The CB map: the rows 1x and 4x to 7x; every other row is unsupported throughout (R92). -/
def cbMap : List (List (Option Instr)) :=
  [[], cbRow1, [], [], cbRow4, cbRow5, cbRow6, cbRow7]

/-- `CB[op2]` (R89). -/
def cbTable (op2 : Byte) : Option Instr := mapCell cbMap op2

/-! ## The decoder (R80, R90) -/

/-- Decode an instruction whose k-th byte is `read k`, taking the bytes in the order R80 fetches them: the check for an
unsupported opcode comes before any operand byte is read (R241). `unsupported prefixed opcode` is the failure that R80
raises; `read` may fail in its own way. -/
def decodeFrom {ε : Type} (unsupported : Bool → Byte → ε) (read : Nat → Except ε Byte) : Except ε Instr :=
  match read 0 with
  | .error x => .error x
  | .ok op =>
    if op = 0xCB then
      match read 1 with
      | .error x => .error x
      | .ok op2 =>
        match cbTable op2 with
        | none => .error (unsupported true op2)
        | some i => .ok i
    else
      match primary op with
      | none => .error (unsupported false op)
      | some (.p1 i) => .ok i
      | some (.n8 f) =>
        match read 1 with
        | .error x => .error x
        | .ok b1 => .ok (f b1)
      | some (.e8 f) =>
        match read 1 with
        | .error x => .error x
        | .ok b1 => .ok (f (sext b1))
      | some (.p3 f) =>
        match read 1 with
        | .error x => .error x
        | .ok b1 =>
          match read 2 with
          | .error x => .error x
          | .ok b2 => .ok (f (wordOf b2 b1))

/-- The length of an instruction in bytes (R81). -/
def Form.length : Form → Nat
  | .ldReg_n8 _ _ => 2
  | .ldPair_n16 _ _ => 3
  | .ldReg_reg _ _ => 1
  | .ldReg_atHL _ => 1
  | .ldAtHL_reg _ => 1
  | .ldAtBC_A => 1
  | .ldAtDE_A => 1
  | .ldA_atBC => 1
  | .ldA_atDE => 1
  | .ldAtHLinc_A => 1
  | .ldAtHLdec_A => 1
  | .ldhAtN8_A _ => 2
  | .ldhA_atN8 _ => 2
  | .ldAtC_A => 1
  | .ldA_atC => 1
  | .ldAtA16_A _ => 3
  | .ldA_atA16 _ => 3
  | .addA_reg _ => 1
  | .addA_atHL => 1
  | .addA_n8 _ => 2
  | .subReg _ => 1
  | .subAtHL => 1
  | .subN8 _ => 2
  | .cpReg _ => 1
  | .cpAtHL => 1
  | .cpN8 _ => 2
  | .xorA => 1
  | .incReg _ => 1
  | .decReg _ => 1
  | .incPair _ => 1
  | .decPair _ => 1
  | .jr _ => 2
  | .jrNZ _ => 2
  | .jrZ _ => 2
  | .call _ => 3
  | .ret => 1
  | .pushPair _ => 1
  | .popPair _ => 1
  | .rla => 1
  | .rlReg _ => 2
  | .bitReg _ _ => 2

/-- The length of an instruction in bytes (R81). -/
def Instr.length (i : Instr) : Nat := i.form.length

/-- Why a list of bytes does not begin with an instruction: it is too short, or its opcode is unsupported (R241; `opcode`
is the byte after 0xCB when `prefixed` holds). -/
inductive DecodeError where
  | truncated
  | unsupported (prefixed : Bool) (opcode : Byte)
  deriving DecidableEq, Repr

/-- The k-th byte of a list. -/
def listByte (bytes : List Byte) (k : Nat) : Except DecodeError Byte :=
  match bytes[k]? with
  | none => .error .truncated
  | some b => .ok b

/-- The instruction at the head of a list of bytes, with the rest of the list. -/
def decode (bytes : List Byte) : Except DecodeError (Instr × List Byte) :=
  match decodeFrom .unsupported (listByte bytes) with
  | .error x => .error x
  | .ok i => .ok (i, bytes.drop i.length)

/-! ## The encoder, from the field patterns (R83 to R88) -/

/-- The 3-bit register codes (R84; code 6 is the (HL) operand). -/
def Reg.code : Reg → BitVec 3
  | .b => 0 | .c => 1 | .d => 2 | .e => 3 | .h => 4 | .l => 5 | .a => 7

/-- The 3-bit code of the (HL) operand (R84). -/
def hlCode : BitVec 3 := 6

/-- The 2-bit pair codes of PUSH and POP (R85). -/
def RegPair.code : RegPair → BitVec 2
  | .bc => 0 | .de => 1 | .hl => 2

/-- The 2-bit pair codes of LD rr,n16, INC rr and DEC rr (R85). -/
def LoadPair.code : LoadPair → BitVec 2
  | .bc => 0 | .de => 1 | .hl => 2 | .sp => 3

/-- An opcode byte from its fields x, y and z (R83, R88). -/
def fieldsXYZ (x : BitVec 2) (y z : BitVec 3) : Byte := x ++ y ++ z

/-- An opcode byte from its fields x, p and the low four bits (R83, R85). -/
def fieldsXP (x p : BitVec 2) (low : BitVec 4) : Byte := x ++ p ++ low

/-- The operand bytes of format P3, low byte first (R82, R87). -/
def operand16 (v : Word) : List Byte := [loByte v, hiByte v]

/-- The bytes of a form, by its pattern: R83 for the primary opcodes with fields, R88 for the CB second byte, and the
fixed bytes R83 lists. -/
def Form.encode : Form → List Byte
  | .ldReg_n8 r n => [fieldsXYZ 0b00 r.code 0b110, n]
  | .ldPair_n16 p n => fieldsXP 0b00 p.code 0b0001 :: operand16 n
  | .ldReg_reg dst src => [fieldsXYZ 0b01 dst.code src.code]
  | .ldReg_atHL r => [fieldsXYZ 0b01 r.code hlCode]
  | .ldAtHL_reg r => [fieldsXYZ 0b01 hlCode r.code]
  | .ldAtBC_A => [0x02]
  | .ldAtDE_A => [0x12]
  | .ldA_atBC => [0x0A]
  | .ldA_atDE => [0x1A]
  | .ldAtHLinc_A => [0x22]
  | .ldAtHLdec_A => [0x32]
  | .ldhAtN8_A n => [0xE0, n]
  | .ldhA_atN8 n => [0xF0, n]
  | .ldAtC_A => [0xE2]
  | .ldA_atC => [0xF2]
  | .ldAtA16_A a => 0xEA :: operand16 a
  | .ldA_atA16 a => 0xFA :: operand16 a
  | .addA_reg r => [fieldsXYZ 0b10 0b000 r.code]
  | .addA_atHL => [fieldsXYZ 0b10 0b000 hlCode]
  | .addA_n8 n => [0xC6, n]
  | .subReg r => [fieldsXYZ 0b10 0b010 r.code]
  | .subAtHL => [fieldsXYZ 0b10 0b010 hlCode]
  | .subN8 n => [0xD6, n]
  | .cpReg r => [fieldsXYZ 0b10 0b111 r.code]
  | .cpAtHL => [fieldsXYZ 0b10 0b111 hlCode]
  | .cpN8 n => [0xFE, n]
  | .xorA => [0xAF]
  | .incReg r => [fieldsXYZ 0b00 r.code 0b100]
  | .decReg r => [fieldsXYZ 0b00 r.code 0b101]
  | .incPair p => [fieldsXP 0b00 p.code 0b0011]
  | .decPair p => [fieldsXP 0b00 p.code 0b1011]
  | .jr e => [0x18, displacementByte e]
  | .jrNZ e => [0x20, displacementByte e]
  | .jrZ e => [0x28, displacementByte e]
  | .call a => 0xCD :: operand16 a
  | .ret => [0xC9]
  | .pushPair p => [fieldsXP 0b11 p.code 0b0101]
  | .popPair p => [fieldsXP 0b11 p.code 0b0001]
  | .rla => [0x17]
  | .rlReg r => [0xCB, fieldsXYZ 0b00 0b010 r.code]
  | .bitReg b r => [0xCB, fieldsXYZ 0b01 (BitVec.ofNat 3 b.val) r.code]

/-- The bytes of a well-formed instruction. -/
def encode (i : Instr) : List Byte := i.form.encode

/-! ## Words as spec/opcode_table.json numbers them -/

/-- The three bytes, in fetch order, of an instruction whose bits are `w` of width `nbits`, the bits above being 0. Bit 0 is
the least significant bit of the first byte; but the table writes a CB row as the one 16-bit number whose HIGH byte
is the 0xCB (R92: `"0xCB11"` is `CB 11`), so a 16-bit word with 0xCB there is read high byte first.
DEDUCED (notes/assumptions/11.md). -/
def tableBytes (nbits w : Nat) : List Byte :=
  let v := w % 2 ^ nbits
  if nbits = 16 ∧ v / 256 = 0xCB then [0xCB, BitVec.ofNat 8 v, 0]
  else [BitVec.ofNat 8 v, BitVec.ofNat 8 (v / 256), BitVec.ofNat 8 (v / 65536)]

/-- The instruction the decoder reads from a word of the opcode table. -/
def decodeTableWord (nbits w : Nat) : Option Instr :=
  match decode (tableBytes nbits w) with
  | .ok (i, _) => some i
  | .error _ => none

end Sys2Proof
end

