-- ==== Sys2Proof/Config.lean ====
section
/-! DEFINITION. The parameters of 00_scope.md R10 that the running machine consults, and the one free value. REG0, MEM0
and LAST_SCY_INIT are consulted only when a program is loaded and stand in Machine/Load.lean. -/

namespace Sys2Proof

/-- FLAG_MODE: how H and C are computed by ADD, SUB, CP, INC r and DEC r (41_alu.md R140). -/
inductive FlagMode where
  | hardware
  | reference
  deriving DecidableEq, Repr

/-- EDGE_MODE: what happens when an address computation leaves 0x0000..0xFFFF (20_memory.md R62). -/
inductive EdgeMode where
  | wrap
  | fault
  deriving DecidableEq, Repr

/-- The parameters. A state carries them (Machine/State.lean), so a statement about every state is a statement about every
choice of parameters. DESIGN CHOICE, safe (notes/assumptions/1.md). -/
structure Config where
  /-- FLAG_MODE (R10, D8: OPEN) -/
  flagMode : FlagMode
  /-- EDGE_MODE (R10, D9) -/
  edgeMode : EdgeMode
  /-- LY_VALUE (R10, D10) -/
  lyValue : Byte
  /-- DUMP_WINDOW, a positive integer (R10, D27: OPEN) -/
  dumpWindow : Nat
  deriving DecidableEq, Repr

/-- DUMP_WINDOW is a positive integer (R10). -/
def Config.wf (c : Config) : Bool := decide (0 < c.dumpWindow)

/-- The defaults of R10, which the spec's vectors use. DESIGN CHOICE, unsafe (notes/assumptions/2.md). -/
def Config.standard : Config where
  flagMode := .hardware
  edgeMode := .wrap
  lyValue := 0x90
  dumpWindow := 32

/-- `draw()`: "an arbitrary bit, 0 or 1, under no law" (R13), used only in FLAG_MODE = reference (41_alu.md R146). It is
applied to a counter of State, so that every draw is a value of its own; no statement can know any of them. A free value,
safe (notes/assumptions/6.md). -/
opaque Config.draw : Nat → Bool

end Sys2Proof
end

