-- ==== Sys2Proof/Machine/State.lean ====
section
/-! DEFINITION. The machine's state as plain data: the tuple of 55_driver.md R230 with the fault record of
60_exceptions.md R242, and two fields of the model's own (the parameters and the draw counter). -/

namespace Sys2Proof.Machine

/-- The seven 8-bit general registers (10_state.md R20). -/
structure Regs where
  a : Byte
  b : Byte
  c : Byte
  d : Byte
  e : Byte
  h : Byte
  l : Byte
  deriving DecidableEq, Repr

/-- The flag register as four booleans; the low nibble of F is always zero and is not stored (10_state.md R29, R30). -/
structure Flags where
  /-- Zero, bit 7 -/
  z : Bool
  /-- Subtraction, bit 6 -/
  n : Bool
  /-- HalfCarry, bit 5 -/
  h : Bool
  /-- Carry, bit 4 -/
  c : Bool
  deriving DecidableEq, Repr

/-- Memory as (address, byte) pairs in canonical form (Machine/Memory.lean says which). -/
abbrev Memory := List Host.Cell

/-- The three exceptions; a name is its cause code (60_exceptions.md R240). -/
inductive FaultKind where
  | unsupportedOpcode
  | edgeFault
  | loadFailure
  deriving DecidableEq, Repr

/-- What `raise` carries (R13): the exceptions a step can raise. -/
inductive Raised where
  /-- `raise UnsupportedOpcode(prefixed, opcode, address)`; the address is the state's PC (R241) -/
  | unsupportedOpcode (prefixed : Bool) (opcode : Byte)
  /-- `raise EdgeFault(v)` with the out-of-range integer v (R246) -/
  | edgeFault (v : Int)
  deriving DecidableEq, Repr

/-- The fault record of a step (60_exceptions.md R242). -/
structure FaultRecord where
  kind : FaultKind
  /-- the instruction address (D16) -/
  address : Word
  prefixed : Bool
  opcode : Byte
  /-- EdgeFault only: the out-of-range integer passed to `addr` -/
  edgeValue : Option Int
  pc : Word
  sp : Word
  regs : Regs
  flags : Flags
  /-- the packed flag byte -/
  packedF : Byte
  /-- DUMP_WINDOW bytes centred on the address -/
  window : List Byte
  deriving DecidableEq, Repr

/-- The run status (10_state.md R39). -/
inductive Status where
  | running
  | faulted (record : FaultRecord)
  deriving DecidableEq, Repr

/-- The machine (55_driver.md R230). -/
structure State where
  /-- A, B, C, D, E, H, L (R20) -/
  regs : Regs
  /-- F.Z, F.N, F.H, F.C (R29) -/
  flags : Flags
  /-- SP (R25) -/
  sp : Word
  /-- PC: the instruction address at the start of a step (R26) -/
  pc : Word
  /-- the 65536 byte cells (20_memory.md R50), SCY, SCX, LCDC and the raw LY cell among them (R33 to R36) -/
  mem : Memory
  /-- last_scy: none, or the SCY value at the previous render (R38) -/
  lastScy : Option Byte
  /-- status (R39) -/
  status : Status
  /-- the MODEL's own: the parameters of R10, which no step changes (notes/assumptions/1.md) -/
  cfg : Config
  /-- the MODEL's own: how many draws have been taken (41_alu.md R146; notes/assumptions/6.md) -/
  draws : Nat
  deriving DecidableEq, Repr

/-- Why the machine stops. -/
inductive Fault where
  /-- Raised by `step` in a state whose status is Faulted: "Once `status` is Faulted, no further step or tick runs"
  (60_exceptions.md R244). Safe: the spec gives such a machine no next state. -/
  | halted (record : FaultRecord)
  deriving DecidableEq, Repr

/-- Why an instruction has no meaning. -/
inductive Refusal where
  /-- Kept for the host's interface; no arm of `exec` answers with it, since every instruction has its meaning. Safe. -/
  | notModelled (mnemonic : String)
  deriving DecidableEq, Repr

/-- What a step or an instruction answers. -/
abbrev Result := Host.Outcome State Fault Refusal

/-- The machine right after reset with no image loaded (10_state.md R41, 70_reset_and_hazards.md R260): PC 0x0000, status
Running, memory MEM0, last_scy LAST_SCY_INIT = none. REG0 is not given by the spec: every register, flag and SP holds zero.
DESIGN CHOICE, unsafe (notes/assumptions/2.md to 6.md). -/
def State.reset : State where
  regs := { a := 0, b := 0, c := 0, d := 0, e := 0, h := 0, l := 0 }
  flags := { z := false, n := false, h := false, c := false }
  sp := 0
  pc := 0
  mem := []
  lastScy := none
  status := .running
  cfg := Config.standard
  draws := 0

end Sys2Proof.Machine
end

