-- ==== Sys2Proof/Machine/Memory.lean ====
section
/-! DEFINITION. Memory (20_memory.md): the 65536 byte cells as a list in canonical form, and the three ways to reach them:
MemRead and MemWrite with the LY intercept (R52), and GfxRead without it (R54). -/

namespace Sys2Proof.Machine

/-! ## The cells -/

/-- What a cell that no image and no store has written reads as: MEM0, by the spec's default zero everywhere (00_scope.md
R10, 70_reset_and_hazards.md R263, D13). DESIGN CHOICE, unsafe (notes/assumptions/4.md). -/
def unlistedByte : Byte := 0

/-- The byte of one cell, `mem[a]`. -/
def Memory.byteAt : Memory → Nat → Byte
  | [], _ => unlistedByte
  | (k, v) :: rest, a => if k = a then v else Memory.byteAt rest a

/-- The list without any entry for an address. -/
def Memory.erase : Memory → Nat → Memory
  | [], _ => []
  | (k, v) :: rest, a => if k = a then Memory.erase rest a else (k, v) :: Memory.erase rest a

/-- The list with an entry put before the first higher address. -/
def Memory.insert : Memory → Nat → Byte → Memory
  | [], a, v => [(a, v)]
  | (k, w) :: rest, a, v => if a < k then (a, v) :: (k, w) :: rest else (k, w) :: Memory.insert rest a v

/-- `mem[a] <- v`; a cell that holds what an unlisted one reads as is not listed. -/
def Memory.setByte (m : Memory) (a : Nat) (v : Byte) : Memory :=
  if v = unlistedByte then m.erase a else (m.erase a).insert a v

/-- The addresses are at least `low`, below 0x10000 and strictly rising, and no entry equals the unlisted byte. -/
def Memory.wfFrom (low : Nat) : Memory → Bool
  | [] => true
  | (k, v) :: rest => decide (low ≤ k) && decide (k < 0x10000) && (v != unlistedByte) && Memory.wfFrom (k + 1) rest

/-- The canonical form: equal memories are equal lists. -/
def Memory.wf (m : Memory) : Bool := Memory.wfFrom 0 m

/-- Bytes put at consecutive addresses by the loader, which writes `mem` directly (70_reset_and_hazards.md R260). -/
def Memory.place (m : Memory) (start : Nat) : List Byte → Memory
  | [] => m
  | v :: rest => Memory.place (m.setByte start v) (start + 1) rest

/-- Bytes put at consecutive 16-bit addresses, wrapping mod 2^16. -/
def Memory.placeAt (m : Memory) (start : Word) : List Byte → Memory
  | [] => m
  | v :: rest => Memory.placeAt (m.setByte start.toNat v) (start + 1) rest

/-! ## The mapped cells (10_state.md R33 to R36) -/

/-- LCDC: plain storage with no effect (R36). -/
def lcdcAddr : Word := 0xFF40
/-- SCY, the background scroll Y register (R33). -/
def scyAddr : Word := 0xFF42
/-- SCX, the background scroll X register (R34). -/
def scxAddr : Word := 0xFF43
/-- LY, the scan line (R35). -/
def lyAddr : Word := 0xFF44

/-! ## The access primitives -/

/-- `MemRead(a, 1)` (R52): LY reads as the constant LY_VALUE, every other cell as its byte. -/
def State.memRead (s : State) (a : Word) : Byte :=
  if a = lyAddr then s.cfg.lyValue else s.mem.byteAt a.toNat

/-- `MemWrite(a, 1, v)` (R52, R53): a write to LY is discarded, every other cell stores the byte. -/
def State.memWrite (s : State) (a : Word) (v : Byte) : State :=
  if a = lyAddr then s else { s with mem := s.mem.setByte a.toNat v }

/-- `GfxRead(a) = mem[a]`, a raw read of one cell (R54, R201). -/
def gfxRead (m : Memory) (a : Nat) : Byte := m.byteAt a

end Sys2Proof.Machine
end

