-- ==== Sys2Proof/Machine/Operands.lean ====
section
/-! DEFINITION. Registers, pairs and addressing modes: the accessors of 10_state.md R20, R21, R25 and the operand forms of
40_loads.md R100 and 41_alu.md R141. -/

namespace Sys2Proof.Machine

/-! ## Registers and pairs -/

/-- `reg[r]` (00_scope.md R13). -/
def Regs.get (g : Regs) : Reg → Byte
  | .a => g.a | .b => g.b | .c => g.c | .d => g.d | .e => g.e | .h => g.h | .l => g.l

/-- `reg[r] <- v` (R13). -/
def Regs.set (g : Regs) (r : Reg) (v : Byte) : Regs :=
  match r with
  | .a => { g with a := v }
  | .b => { g with b := v }
  | .c => { g with c := v }
  | .d => { g with d := v }
  | .e => { g with e := v }
  | .h => { g with h := v }
  | .l => { g with l := v }

/-- The register of a pair's high byte (R21). -/
def pairHi : RegPair → Reg
  | .bc => .b | .de => .d | .hl => .h

/-- The register of a pair's low byte (R21). -/
def pairLo : RegPair → Reg
  | .bc => .c | .de => .e | .hl => .l

/-- `pair[rr]`, which is `reg[hi]*0x100 + reg[lo]` (R21). -/
def Regs.pair (g : Regs) (p : RegPair) : Word := wordOf (g.get (pairHi p)) (g.get (pairLo p))

/-- `pair[rr] <- v` (R21). -/
def Regs.setPair (g : Regs) (p : RegPair) (v : Word) : Regs :=
  (g.set (pairHi p) (hiByte v)).set (pairLo p) (loByte v)

/-- `reg[r] <- v` on the machine. -/
def State.setReg (s : State) (r : Reg) (v : Byte) : State := { s with regs := s.regs.set r v }

/-- `pair[rr] <- v` on the machine. -/
def State.setPair (s : State) (p : RegPair) (v : Word) : State := { s with regs := s.regs.setPair p v }

/-- The 16-bit operand of INC rr and DEC rr: a pair or SP (41_alu.md R159, R160). -/
def State.loadPair (s : State) : LoadPair → Word
  | .bc => s.regs.pair .bc
  | .de => s.regs.pair .de
  | .hl => s.regs.pair .hl
  | .sp => s.sp

/-- The 16-bit destination of LD rr,n16, INC rr and DEC rr (40_loads.md R102). -/
def State.setLoadPair (s : State) (p : LoadPair) (v : Word) : State :=
  match p with
  | .bc => s.setPair .bc v
  | .de => s.setPair .de v
  | .hl => s.setPair .hl v
  | .sp => { s with sp := v }

/-! ## Effective addresses (40_loads.md R100) -/

/-- `(HL)`, `(BC)` and `(DE)`: the pair's value (R100, 20_memory.md R56). -/
def atPair (p : RegPair) (s : State) : Word := s.regs.pair p

/-- `0xFF00 + n` (R100), always in 0xFF00..0xFFFF. -/
def highPage (n : Byte) : Word := BitVec.ofNat 16 (0xFF00 + n.toNat)

/-- `(C)`: 0xFF00 + reg[C] (R100). -/
def atC (s : State) : Word := highPage (s.regs.get .c)

/-- `(n8)` in LDH: 0xFF00 + b1 (R100). -/
def atN8 (n : Byte) (_s : State) : Word := highPage n

/-- `(a16)`: b2*0x100 + b1, which the decoder has assembled (R100). -/
def atA16 (a : Word) (_s : State) : Word := a

/-! ## The second operand of the 8-bit arithmetic (41_alu.md R141) -/

/-- The three forms of the operand s. -/
inductive Source where
  | reg (r : Reg)
  | atHL
  | imm (n : Byte)
  deriving DecidableEq, Repr

/-- The value of s (R141). -/
def State.source (s : State) : Source → Byte
  | .reg r => s.regs.get r
  | .atHL => s.memRead (atPair .hl s)
  | .imm n => n

end Sys2Proof.Machine
end

