-- ==== Sys2Proof/Machine/Flags.lean ====
section
/-! DEFINITION. The flag register and every flag computation (10_state.md R29, R30; 41_alu.md R140 to R146; 43_rotate_bit.md
R190 to R192). -/

namespace Sys2Proof.Machine

/-- A flag as the bit it is in arithmetic. -/
def bit (b : Bool) : Nat := if b then 1 else 0

/-- The packed byte `F = Z*0x80 + N*0x40 + H*0x20 + C*0x10` (R30). -/
def Flags.packed (f : Flags) : Byte :=
  BitVec.ofNat 8 (bit f.z * 0x80 + bit f.n * 0x40 + bit f.h * 0x20 + bit f.c * 0x10)

/-- What an 8-bit flag function returns. -/
structure AluOut where
  result : Byte
  flags : Flags
  deriving DecidableEq, Repr

/-- `add8(a, b)` (R142). -/
def add8 (a b : Byte) : AluOut :=
  let t := a.toNat + b.toNat
  let res := BitVec.ofNat 8 (t % 256)
  { result := res
    flags :=
      { z := res == 0
        n := false
        h := decide (a.toNat % 16 + b.toNat % 16 > 0xF)
        c := decide (t > 0xFF) } }

/-- `sub8(a, b)` (R143); `u8(a - b)` is `(a + 256 - b) mod 256`. -/
def sub8 (a b : Byte) : AluOut :=
  let res := BitVec.ofNat 8 ((a.toNat + 256 - b.toNat) % 256)
  { result := res
    flags :=
      { z := res == 0
        n := true
        h := decide (a.toNat % 16 < b.toNat % 16)
        c := decide (a.toNat < b.toNat) } }

/-- `inc8(v)` (R144); `c` is the C flag, which it leaves as it was. -/
def inc8 (v : Byte) (c : Bool) : AluOut :=
  let res := BitVec.ofNat 8 ((v.toNat + 1) % 256)
  { result := res
    flags := { z := res == 0, n := false, h := decide (v.toNat % 16 = 0xF), c := c } }

/-- `dec8(v)` (R145); `c` is the C flag, which it leaves as it was. -/
def dec8 (v : Byte) (c : Bool) : AluOut :=
  let res := BitVec.ofNat 8 ((v.toNat + 255) % 256)
  { result := res
    flags := { z := res == 0, n := true, h := decide (v.toNat % 16 = 0), c := c } }

/-- `F <- flags` of ADD, SUB, CP, INC r and DEC r: as computed in hardware mode; in reference mode H and C are replaced
by two independent draws (R146). -/
def State.writeFlags (s : State) (f : Flags) : State :=
  match s.cfg.flagMode with
  | .hardware => { s with flags := f }
  | .reference =>
    { s with
      flags := { z := f.z, n := f.n, h := Config.draw s.draws, c := Config.draw (s.draws + 1) }
      draws := s.draws + 2 }

/-- `u8(old*2 + F.C)` (R190, R191). -/
def rotateLeft (old : Byte) (c : Bool) : Byte := BitVec.ofNat 8 ((old.toNat * 2 + bit c) % 256)

/-- Bit k of a byte, `v[k]` (00_scope.md R11). -/
def bitOf (v : Byte) (k : Nat) : Bool := decide (v.toNat / 2 ^ k % 2 = 1)

end Sys2Proof.Machine
end

