-- ==== Sys2Proof/Machine/Ops.lean ====
section
/-! DEFINITION. The operations instructions share: checked addresses (20_memory.md R62), the stack (42_control_stack.md R170,
R171), taking an exception (60_exceptions.md R242, R243), and the frame of one instruction's execution (30_encoding.md
R80). KGB-CORE has no return from an exception to stand beside its taking: a fault is terminal (R244, R249). -/

namespace Sys2Proof.Machine

/-! ## Checked addresses -/

/-- `0 <= v <= 0xFFFF`, by the integer's sign (`inSpace_iff` in Laws/Ops.lean says it in those words; the comparison of
integers itself would make Lean count down from 0xFFFF wherever it looks at an open v). -/
def inSpace : Int → Bool
  | .ofNat n => Nat.ble n 0xFFFF
  | .negSucc _ => false

/-- `addr(v)` (20_memory.md R62): v itself when in range, else reduced mod 2^16 or refused with v, by EDGE_MODE. -/
def edgeAddr (mode : EdgeMode) (v : Int) : Except Int Word :=
  if inSpace v then .ok (BitVec.ofInt 16 v)
  else
    match mode with
    | .wrap => .ok (BitVec.ofInt 16 v)
    | .fault => .error v

/-- `addr(v)` in the machine's own mode. -/
def State.addr (s : State) (v : Int) : Except Int Word := edgeAddr s.cfg.edgeMode v

/-- What an instruction does once PC is PC_next: a new state, or the integer of an EdgeFault. -/
abbrev Effect := State → Except Int State

/-! ## The stack -/

/-- `push16(v)` (42_control_stack.md R170): high byte at SP, low byte at SP - 1, SP down by 2; every address is computed
before any write. -/
def push16 (v : Word) : Effect := fun s =>
  match s.addr (s.sp.toNat - 1) with
  | .error x => .error x
  | .ok aLo =>
    match s.addr (s.sp.toNat - 2) with
    | .error x => .error x
    | .ok sp2 => .ok { (s.memWrite s.sp (hiByte v)).memWrite aLo (loByte v) with sp := sp2 }

/-- `pop16()` (42_control_stack.md R171): low byte from SP + 1, high byte from SP + 2, SP up by 2. -/
def pop16 (s : State) : Except Int (Word × State) :=
  match s.addr (s.sp.toNat + 1) with
  | .error x => .error x
  | .ok aLo =>
    match s.addr (s.sp.toNat + 2) with
    | .error x => .error x
    | .ok aHi => .ok (wordOf (s.memRead aHi) (s.memRead aLo), { s with sp := aHi })

/-! ## Taking an exception -/

/-- The record's window: DUMP_WINDOW bytes from address - (DUMP_WINDOW div 2), its addresses wrapping in both modes
(60_exceptions.md R242). -/
def State.faultWindow (s : State) (address : Word) : List Byte :=
  (List.range s.cfg.dumpWindow).map fun (k : Nat) =>
    s.memRead (BitVec.ofInt 16 ((address.toNat : Int) - (s.cfg.dumpWindow / 2 : Nat) + k))

/-- The fault record (60_exceptions.md R242) of the state before the step, whose PC is the instruction address. For an
EdgeFault `opcode` is the byte at that address, and `prefixed` is false: DEDUCED (notes/assumptions/10.md). -/
def State.faultRecord (s : State) (x : Raised) : FaultRecord where
  kind :=
    match x with
    | .unsupportedOpcode _ _ => .unsupportedOpcode
    | .edgeFault _ => .edgeFault
  address := s.pc
  prefixed :=
    match x with
    | .unsupportedOpcode p _ => p
    | .edgeFault _ => false
  opcode :=
    match x with
    | .unsupportedOpcode _ op => op
    | .edgeFault _ => s.memRead s.pc
  edgeValue :=
    match x with
    | .unsupportedOpcode _ _ => none
    | .edgeFault v => some v
  pc := s.pc
  sp := s.sp
  regs := s.regs
  flags := s.flags
  packedF := s.flags.packed
  window := s.faultWindow s.pc

/-- The effect of a fault (60_exceptions.md R243): the status becomes Faulted(record) and every other piece of the state
before the step stays as it was. -/
def State.takeFault (s : State) (x : Raised) : State := { s with status := .faulted (s.faultRecord x) }

/-! ## One instruction -/

/-- Execute an instruction of `len` bytes from the state before it (30_encoding.md R80, 10_state.md R27): PC becomes
PC_next, then the effect runs. An EdgeFault of PC_next or of the effect discards whatever was done and is taken in the
state before the instruction (60_exceptions.md R243, R247). -/
def State.complete (len : Nat) (effect : Effect) (s : State) : Result :=
  match s.addr (s.pc.toNat + len) with
  | .error v => .next (s.takeFault (.edgeFault v))
  | .ok pcNext =>
    match effect { s with pc := pcNext } with
    | .error v => .next (s.takeFault (.edgeFault v))
    | .ok t => .next t

end Sys2Proof.Machine
end

