-- ==== Sys2Proof/Machine/Alu.lean ====
section
/-! DEFINITION. Arithmetic, compare, XOR A, increment and decrement (41_alu.md R147 to R160), each a line over a shared
operation. `writeFlags` carries the rules' `F <- flags` with R146 -/

namespace Sys2Proof.Machine

/-! ## The shared operations -/

/-- ADD A,s: `(res, flags) <- add8(reg[A], s); reg[A] <- res; F <- flags` (R147 to R149). -/
def addA (len : Nat) (src : Source) : State → Result :=
  State.complete len fun s =>
    let o := add8 (s.regs.get .a) (s.source src)
    .ok ((s.setReg .a o.result).writeFlags o.flags)

/-- SUB s: `(res, flags) <- sub8(reg[A], s); reg[A] <- res; F <- flags` (R150 to R152). -/
def subA (len : Nat) (src : Source) : State → Result :=
  State.complete len fun s =>
    let o := sub8 (s.regs.get .a) (s.source src)
    .ok ((s.setReg .a o.result).writeFlags o.flags)

/-- CP s: `(res, flags) <- sub8(reg[A], s); F <- flags`, the result discarded (R153 to R155). -/
def cpA (len : Nat) (src : Source) : State → Result :=
  State.complete len fun s => .ok (s.writeFlags (sub8 (s.regs.get .a) (s.source src)).flags)

/-- INC r: `(res, flags) <- inc8(reg[r]); reg[r] <- res; F <- flags` (R157). -/
def incReg (r : Reg) : State → Result :=
  State.complete 1 fun s =>
    let o := inc8 (s.regs.get r) s.flags.c
    .ok ((s.setReg r o.result).writeFlags o.flags)

/-- DEC r: `(res, flags) <- dec8(reg[r]); reg[r] <- res; F <- flags` (R158). -/
def decReg (r : Reg) : State → Result :=
  State.complete 1 fun s =>
    let o := dec8 (s.regs.get r) s.flags.c
    .ok ((s.setReg r o.result).writeFlags o.flags)

/-- INC rr: `u16(pair + 1)`, in every EDGE_MODE, no flag written (R159). -/
def incPair (p : LoadPair) : State → Result :=
  State.complete 1 fun s => .ok (s.setLoadPair p (s.loadPair p + 1))

/-- DEC rr: `u16(pair - 1)`, in every EDGE_MODE, no flag written (R160). -/
def decPair (p : LoadPair) : State → Result :=
  State.complete 1 fun s => .ok (s.setLoadPair p (s.loadPair p - 1))

/-! ## The instructions -/

/-! ### ADD A,r (R147) -/

/-- ADD A,B (R147). -/
def execAddA_B (s : State) : Result := addA 1 (.reg .b) s
/-- ADD A,C (R147). -/
def execAddA_C (s : State) : Result := addA 1 (.reg .c) s
/-- ADD A,D (R147). -/
def execAddA_D (s : State) : Result := addA 1 (.reg .d) s
/-- ADD A,E (R147). -/
def execAddA_E (s : State) : Result := addA 1 (.reg .e) s
/-- ADD A,H (R147). -/
def execAddA_H (s : State) : Result := addA 1 (.reg .h) s
/-- ADD A,L (R147). -/
def execAddA_L (s : State) : Result := addA 1 (.reg .l) s
/-- ADD A,A (R147). -/
def execAddA_A (s : State) : Result := addA 1 (.reg .a) s

/-! ### ADD A,(HL) (R148) -/

/-- ADD A,(HL) (R148). -/
def execAddA_atHL (s : State) : Result := addA 1 .atHL s

/-! ### ADD A,n8 (R149) -/

/-- ADD A,n8 (R149). -/
def execAddA_n8 (n : Byte) (s : State) : Result := addA 2 (.imm n) s

/-! ### SUB r (R150) -/

/-- SUB B (R150). -/
def execSubB (s : State) : Result := subA 1 (.reg .b) s
/-- SUB C (R150). -/
def execSubC (s : State) : Result := subA 1 (.reg .c) s
/-- SUB D (R150). -/
def execSubD (s : State) : Result := subA 1 (.reg .d) s
/-- SUB E (R150). -/
def execSubE (s : State) : Result := subA 1 (.reg .e) s
/-- SUB H (R150). -/
def execSubH (s : State) : Result := subA 1 (.reg .h) s
/-- SUB L (R150). -/
def execSubL (s : State) : Result := subA 1 (.reg .l) s
/-- SUB A (R150). -/
def execSubA (s : State) : Result := subA 1 (.reg .a) s

/-! ### SUB (HL) (R151) -/

/-- SUB (HL) (R151). -/
def execSubAtHL (s : State) : Result := subA 1 .atHL s

/-! ### SUB n8 (R152) -/

/-- SUB n8 (R152). -/
def execSubN8 (n : Byte) (s : State) : Result := subA 2 (.imm n) s

/-! ### CP r (R153) -/

/-- CP B (R153). -/
def execCpB (s : State) : Result := cpA 1 (.reg .b) s
/-- CP C (R153). -/
def execCpC (s : State) : Result := cpA 1 (.reg .c) s
/-- CP D (R153). -/
def execCpD (s : State) : Result := cpA 1 (.reg .d) s
/-- CP E (R153). -/
def execCpE (s : State) : Result := cpA 1 (.reg .e) s
/-- CP H (R153). -/
def execCpH (s : State) : Result := cpA 1 (.reg .h) s
/-- CP L (R153). -/
def execCpL (s : State) : Result := cpA 1 (.reg .l) s
/-- CP A (R153). -/
def execCpA (s : State) : Result := cpA 1 (.reg .a) s

/-! ### CP (HL) (R154) -/

/-- CP (HL) (R154). -/
def execCpAtHL (s : State) : Result := cpA 1 .atHL s

/-! ### CP n8 (R155) -/

/-- CP n8 (R155). -/
def execCpN8 (n : Byte) (s : State) : Result := cpA 2 (.imm n) s

/-! ### XOR A (R156) -/

/-- XOR A: A becomes 0, Z is set, N, H and C are cleared, in both FLAG_MODEs (R156). -/
def execXorA (s : State) : Result :=
  State.complete 1 (fun s => .ok { s.setReg .a 0 with flags := { z := true, n := false, h := false, c := false } }) s

/-! ### INC r (R157) -/

/-- INC B (R157). -/
def execIncB (s : State) : Result := incReg .b s
/-- INC C (R157). -/
def execIncC (s : State) : Result := incReg .c s
/-- INC D (R157). -/
def execIncD (s : State) : Result := incReg .d s
/-- INC E (R157). -/
def execIncE (s : State) : Result := incReg .e s
/-- INC H (R157). -/
def execIncH (s : State) : Result := incReg .h s
/-- INC L (R157). -/
def execIncL (s : State) : Result := incReg .l s
/-- INC A (R157). -/
def execIncA (s : State) : Result := incReg .a s

/-! ### DEC r (R158) -/

/-- DEC B (R158). -/
def execDecB (s : State) : Result := decReg .b s
/-- DEC C (R158). -/
def execDecC (s : State) : Result := decReg .c s
/-- DEC D (R158). -/
def execDecD (s : State) : Result := decReg .d s
/-- DEC E (R158). -/
def execDecE (s : State) : Result := decReg .e s
/-- DEC H (R158). -/
def execDecH (s : State) : Result := decReg .h s
/-- DEC L (R158). -/
def execDecL (s : State) : Result := decReg .l s
/-- DEC A (R158). -/
def execDecA (s : State) : Result := decReg .a s

/-! ### INC rr (R159) -/

/-- INC BC (R159). -/
def execIncBC (s : State) : Result := incPair .bc s
/-- INC DE (R159). -/
def execIncDE (s : State) : Result := incPair .de s
/-- INC HL (R159). -/
def execIncHL (s : State) : Result := incPair .hl s
/-- INC SP (R159). -/
def execIncSP (s : State) : Result := incPair .sp s

/-! ### DEC rr (R160) -/

/-- DEC BC (R160). -/
def execDecBC (s : State) : Result := decPair .bc s
/-- DEC DE (R160). -/
def execDecDE (s : State) : Result := decPair .de s
/-- DEC HL (R160). -/
def execDecHL (s : State) : Result := decPair .hl s
/-- DEC SP (R160). -/
def execDecSP (s : State) : Result := decPair .sp s

end Sys2Proof.Machine
end

