-- ==== Sys2Proof/Machine/Control.lean ====
section
/-! DEFINITION. Relative jumps, call and return, push and pop (42_control_stack.md R174 to R180). Inside an effect the
state's PC is PC_next -/

namespace Sys2Proof.Machine

/-! ## The shared operations -/

/-- A relative jump: when taken, PC becomes addr(PC_next + e8), and when not, the target is not computed (R174 to R176). -/
def jumpIf (taken : Flags → Bool) (e : Int) : State → Result :=
  State.complete 2 fun s =>
    if taken s.flags then
      match s.addr (s.pc.toNat + e) with
      | .error x => .error x
      | .ok target => .ok { s with pc := target }
    else .ok s

/-- PUSH rr: `push16(pair[rr])` (R179). -/
def pushPair (p : RegPair) : State → Result := State.complete 1 fun s => push16 (s.regs.pair p) s

/-- POP rr: `pair[rr] <- pop16()` (R180). -/
def popPair (p : RegPair) : State → Result :=
  State.complete 1 fun s =>
    match pop16 s with
    | .error x => .error x
    | .ok (v, t) => .ok (t.setPair p v)

/-! ## The instructions -/

/-! ### JR e8 (R174) -/

/-- JR e8 (R174). -/
def execJr (e : Int) (s : State) : Result := jumpIf (fun _ => true) e s

/-! ### JR NZ,e8 (R175) -/

/-- JR NZ,e8 (R175). -/
def execJrNZ (e : Int) (s : State) : Result := jumpIf (fun f => !f.z) e s

/-! ### JR Z,e8 (R176) -/

/-- JR Z,e8 (R176). -/
def execJrZ (e : Int) (s : State) : Result := jumpIf (fun f => f.z) e s

/-! ### CALL a16 (R177) -/

/-- CALL a16: PC_next, the return address, is pushed, then PC becomes the target (R177). -/
def execCall (a : Word) (s : State) : Result :=
  State.complete 3
    (fun s =>
      match push16 s.pc s with
      | .error x => .error x
      | .ok t => .ok { t with pc := a })
    s

/-! ### RET (R178) -/

/-- RET: PC becomes the word popped (R178). -/
def execRet (s : State) : Result :=
  State.complete 1
    (fun s =>
      match pop16 s with
      | .error x => .error x
      | .ok (v, t) => .ok { t with pc := v })
    s

/-! ### PUSH rr (R179) -/

/-- PUSH BC (R179). -/
def execPushBC (s : State) : Result := pushPair .bc s
/-- PUSH DE (R179). -/
def execPushDE (s : State) : Result := pushPair .de s
/-- PUSH HL (R179). -/
def execPushHL (s : State) : Result := pushPair .hl s

/-! ### POP rr (R180) -/

/-- POP BC (R180). -/
def execPopBC (s : State) : Result := popPair .bc s
/-- POP DE (R180). -/
def execPopDE (s : State) : Result := popPair .de s
/-- POP HL (R180). -/
def execPopHL (s : State) : Result := popPair .hl s

end Sys2Proof.Machine
end

