-- ==== Sys2Proof/Machine/Loads.lean ====
section
/-! DEFINITION. The loads and stores (40_loads.md R101 to R117), each a line over one of six shared operations. None
reads or writes a flag; every access goes through MemRead and MemWrite, so the LY cell behaves as R52 says -/

namespace Sys2Proof.Machine

/-! ## The shared operations -/

/-- LD r,n8: `reg[r] <- b1` (R101). -/
def loadImm8 (r : Reg) (n : Byte) : State → Result := State.complete 2 fun s => .ok (s.setReg r n)

/-- LD rr,n16: the high byte to the high register and the low byte to the low one, or both to SP (R102). -/
def loadImm16 (p : LoadPair) (n : Word) : State → Result := State.complete 3 fun s => .ok (s.setLoadPair p n)

/-- LD r,r': `reg[d] <- reg[s]` (R103). -/
def moveReg (dst src : Reg) : State → Result := State.complete 1 fun s => .ok (s.setReg dst (s.regs.get src))

/-- A load: the effective address is computed before the register is written (R104). -/
def loadFrom (len : Nat) (dst : Reg) (ea : State → Word) : State → Result :=
  State.complete len fun s => .ok (s.setReg dst (s.memRead (ea s)))

/-- A store of a register's byte (R105). -/
def storeTo (len : Nat) (ea : State → Word) (src : Reg) : State → Result :=
  State.complete len fun s => .ok (s.memWrite (ea s) (s.regs.get src))

/-- LD (HL+),A and LD (HL-),A: A is stored where HL points, then HL steps, wrapping mod 2^16 in both edge modes
(R110, R111, 10_state.md R21). -/
def storeStep (update : Word → Word) : State → Result :=
  State.complete 1 fun s =>
    let ea := atPair .hl s
    .ok ((s.memWrite ea (s.regs.get .a)).setPair .hl (update ea))

/-! ## The instructions -/

/-! ### LD r,n8 (R101) -/

/-- LD B,n8 (R101). -/
def execLdB_n8 (n : Byte) (s : State) : Result := loadImm8 .b n s
/-- LD C,n8 (R101). -/
def execLdC_n8 (n : Byte) (s : State) : Result := loadImm8 .c n s
/-- LD D,n8 (R101). -/
def execLdD_n8 (n : Byte) (s : State) : Result := loadImm8 .d n s
/-- LD E,n8 (R101). -/
def execLdE_n8 (n : Byte) (s : State) : Result := loadImm8 .e n s
/-- LD H,n8 (R101). -/
def execLdH_n8 (n : Byte) (s : State) : Result := loadImm8 .h n s
/-- LD L,n8 (R101). -/
def execLdL_n8 (n : Byte) (s : State) : Result := loadImm8 .l n s
/-- LD A,n8 (R101). -/
def execLdA_n8 (n : Byte) (s : State) : Result := loadImm8 .a n s

/-! ### LD rr,n16 (R102) -/

/-- LD BC,n16 (R102). -/
def execLdBC_n16 (n : Word) (s : State) : Result := loadImm16 .bc n s
/-- LD DE,n16 (R102). -/
def execLdDE_n16 (n : Word) (s : State) : Result := loadImm16 .de n s
/-- LD HL,n16 (R102). -/
def execLdHL_n16 (n : Word) (s : State) : Result := loadImm16 .hl n s
/-- LD SP,n16 (R102). -/
def execLdSP_n16 (n : Word) (s : State) : Result := loadImm16 .sp n s

/-! ### LD r,r' (R103) -/

/-- LD B,B (R103). -/
def execLdB_B (s : State) : Result := moveReg .b .b s
/-- LD B,C (R103). -/
def execLdB_C (s : State) : Result := moveReg .b .c s
/-- LD B,D (R103). -/
def execLdB_D (s : State) : Result := moveReg .b .d s
/-- LD B,E (R103). -/
def execLdB_E (s : State) : Result := moveReg .b .e s
/-- LD B,H (R103). -/
def execLdB_H (s : State) : Result := moveReg .b .h s
/-- LD B,L (R103). -/
def execLdB_L (s : State) : Result := moveReg .b .l s
/-- LD B,A (R103). -/
def execLdB_A (s : State) : Result := moveReg .b .a s
/-- LD C,B (R103). -/
def execLdC_B (s : State) : Result := moveReg .c .b s
/-- LD C,C (R103). -/
def execLdC_C (s : State) : Result := moveReg .c .c s
/-- LD C,D (R103). -/
def execLdC_D (s : State) : Result := moveReg .c .d s
/-- LD C,E (R103). -/
def execLdC_E (s : State) : Result := moveReg .c .e s
/-- LD C,H (R103). -/
def execLdC_H (s : State) : Result := moveReg .c .h s
/-- LD C,L (R103). -/
def execLdC_L (s : State) : Result := moveReg .c .l s
/-- LD C,A (R103). -/
def execLdC_A (s : State) : Result := moveReg .c .a s
/-- LD D,B (R103). -/
def execLdD_B (s : State) : Result := moveReg .d .b s
/-- LD D,C (R103). -/
def execLdD_C (s : State) : Result := moveReg .d .c s
/-- LD D,D (R103). -/
def execLdD_D (s : State) : Result := moveReg .d .d s
/-- LD D,E (R103). -/
def execLdD_E (s : State) : Result := moveReg .d .e s
/-- LD D,H (R103). -/
def execLdD_H (s : State) : Result := moveReg .d .h s
/-- LD D,L (R103). -/
def execLdD_L (s : State) : Result := moveReg .d .l s
/-- LD D,A (R103). -/
def execLdD_A (s : State) : Result := moveReg .d .a s
/-- LD E,B (R103). -/
def execLdE_B (s : State) : Result := moveReg .e .b s
/-- LD E,C (R103). -/
def execLdE_C (s : State) : Result := moveReg .e .c s
/-- LD E,D (R103). -/
def execLdE_D (s : State) : Result := moveReg .e .d s
/-- LD E,E (R103). -/
def execLdE_E (s : State) : Result := moveReg .e .e s
/-- LD E,H (R103). -/
def execLdE_H (s : State) : Result := moveReg .e .h s
/-- LD E,L (R103). -/
def execLdE_L (s : State) : Result := moveReg .e .l s
/-- LD E,A (R103). -/
def execLdE_A (s : State) : Result := moveReg .e .a s
/-- LD H,B (R103). -/
def execLdH_B (s : State) : Result := moveReg .h .b s
/-- LD H,C (R103). -/
def execLdH_C (s : State) : Result := moveReg .h .c s
/-- LD H,D (R103). -/
def execLdH_D (s : State) : Result := moveReg .h .d s
/-- LD H,E (R103). -/
def execLdH_E (s : State) : Result := moveReg .h .e s
/-- LD H,H (R103). -/
def execLdH_H (s : State) : Result := moveReg .h .h s
/-- LD H,L (R103). -/
def execLdH_L (s : State) : Result := moveReg .h .l s
/-- LD H,A (R103). -/
def execLdH_A (s : State) : Result := moveReg .h .a s
/-- LD L,B (R103). -/
def execLdL_B (s : State) : Result := moveReg .l .b s
/-- LD L,C (R103). -/
def execLdL_C (s : State) : Result := moveReg .l .c s
/-- LD L,D (R103). -/
def execLdL_D (s : State) : Result := moveReg .l .d s
/-- LD L,E (R103). -/
def execLdL_E (s : State) : Result := moveReg .l .e s
/-- LD L,H (R103). -/
def execLdL_H (s : State) : Result := moveReg .l .h s
/-- LD L,L (R103). -/
def execLdL_L (s : State) : Result := moveReg .l .l s
/-- LD L,A (R103). -/
def execLdL_A (s : State) : Result := moveReg .l .a s
/-- LD A,B (R103). -/
def execLdA_B (s : State) : Result := moveReg .a .b s
/-- LD A,C (R103). -/
def execLdA_C (s : State) : Result := moveReg .a .c s
/-- LD A,D (R103). -/
def execLdA_D (s : State) : Result := moveReg .a .d s
/-- LD A,E (R103). -/
def execLdA_E (s : State) : Result := moveReg .a .e s
/-- LD A,H (R103). -/
def execLdA_H (s : State) : Result := moveReg .a .h s
/-- LD A,L (R103). -/
def execLdA_L (s : State) : Result := moveReg .a .l s
/-- LD A,A (R103). -/
def execLdA_A (s : State) : Result := moveReg .a .a s

/-! ### LD r,(HL) (R104) -/

/-- LD B,(HL) (R104). -/
def execLdB_atHL (s : State) : Result := loadFrom 1 .b (atPair .hl) s
/-- LD C,(HL) (R104). -/
def execLdC_atHL (s : State) : Result := loadFrom 1 .c (atPair .hl) s
/-- LD D,(HL) (R104). -/
def execLdD_atHL (s : State) : Result := loadFrom 1 .d (atPair .hl) s
/-- LD E,(HL) (R104). -/
def execLdE_atHL (s : State) : Result := loadFrom 1 .e (atPair .hl) s
/-- LD H,(HL) (R104). -/
def execLdH_atHL (s : State) : Result := loadFrom 1 .h (atPair .hl) s
/-- LD L,(HL) (R104). -/
def execLdL_atHL (s : State) : Result := loadFrom 1 .l (atPair .hl) s
/-- LD A,(HL) (R104). -/
def execLdA_atHL (s : State) : Result := loadFrom 1 .a (atPair .hl) s

/-! ### LD (HL),r (R105) -/

/-- LD (HL),B (R105). -/
def execLdAtHL_B (s : State) : Result := storeTo 1 (atPair .hl) .b s
/-- LD (HL),C (R105). -/
def execLdAtHL_C (s : State) : Result := storeTo 1 (atPair .hl) .c s
/-- LD (HL),D (R105). -/
def execLdAtHL_D (s : State) : Result := storeTo 1 (atPair .hl) .d s
/-- LD (HL),E (R105). -/
def execLdAtHL_E (s : State) : Result := storeTo 1 (atPair .hl) .e s
/-- LD (HL),H (R105). -/
def execLdAtHL_H (s : State) : Result := storeTo 1 (atPair .hl) .h s
/-- LD (HL),L (R105). -/
def execLdAtHL_L (s : State) : Result := storeTo 1 (atPair .hl) .l s
/-- LD (HL),A (R105). -/
def execLdAtHL_A (s : State) : Result := storeTo 1 (atPair .hl) .a s

/-! ### LD (BC),A (R106) -/

/-- LD (BC),A (R106). -/
def execLdAtBC_A (s : State) : Result := storeTo 1 (atPair .bc) .a s

/-! ### LD (DE),A (R107) -/

/-- LD (DE),A (R107). -/
def execLdAtDE_A (s : State) : Result := storeTo 1 (atPair .de) .a s

/-! ### LD A,(BC) (R108) -/

/-- LD A,(BC) (R108). -/
def execLdA_atBC (s : State) : Result := loadFrom 1 .a (atPair .bc) s

/-! ### LD A,(DE) (R109) -/

/-- LD A,(DE) (R109). -/
def execLdA_atDE (s : State) : Result := loadFrom 1 .a (atPair .de) s

/-! ### LD (HL+),A (R110) -/

/-- LD (HL+),A (R110). -/
def execLdAtHLinc_A (s : State) : Result := storeStep (· + 1) s

/-! ### LD (HL-),A (R111) -/

/-- LD (HL-),A (R111). -/
def execLdAtHLdec_A (s : State) : Result := storeStep (· - 1) s

/-! ### LDH (n8),A (R112) -/

/-- LDH (n8),A (R112). -/
def execLdhAtN8_A (n : Byte) (s : State) : Result := storeTo 2 (atN8 n) .a s

/-! ### LDH A,(n8) (R113) -/

/-- LDH A,(n8) (R113). -/
def execLdhA_atN8 (n : Byte) (s : State) : Result := loadFrom 2 .a (atN8 n) s

/-! ### LD (C),A (R114) -/

/-- LD (C),A (R114). -/
def execLdAtC_A (s : State) : Result := storeTo 1 atC .a s

/-! ### LD A,(C) (R115) -/

/-- LD A,(C) (R115). -/
def execLdA_atC (s : State) : Result := loadFrom 1 .a atC s

/-! ### LD (a16),A (R116) -/

/-- LD (a16),A (R116). -/
def execLdAtA16_A (a : Word) (s : State) : Result := storeTo 3 (atA16 a) .a s

/-! ### LD A,(a16) (R117) -/

/-- LD A,(a16) (R117). -/
def execLdA_atA16 (a : Word) (s : State) : Result := loadFrom 3 .a (atA16 a) s

end Sys2Proof.Machine
end

