-- ==== Sys2Proof/Machine/RotateBit.lean ====
section
/-! DEFINITION. Rotate and bit test (43_rotate_bit.md R190 to R192). Their flags are exact in both FLAG_MODEs (41_alu.md
R146) -/

namespace Sys2Proof.Machine

/-! ## The shared operations -/

/-- RL r: rotate left through the carry; Z by the result (R191). -/
def rotateReg (r : Reg) : State → Result :=
  State.complete 2 fun s =>
    let old := s.regs.get r
    let res := rotateLeft old s.flags.c
    .ok { s.setReg r res with flags := { z := res == 0, n := false, h := false, c := bitOf old 7 } }

/-- BIT b,r: Z is the complement of the tested bit, N clear, H set, C and the register unchanged (R192). -/
def testBit (b : Fin 8) (r : Reg) : State → Result :=
  State.complete 2 fun s =>
    .ok { s with flags := { z := !bitOf (s.regs.get r) b.val, n := false, h := true, c := s.flags.c } }

/-! ## The instructions -/

/-! ### RLA (R190) -/

/-- RLA: rotate A left through the carry; Z is cleared even when the result is 0 (R190). -/
def execRla (s : State) : Result :=
  State.complete 1
    (fun s =>
      let old := s.regs.get .a
      .ok { s.setReg .a (rotateLeft old s.flags.c) with
            flags := { z := false, n := false, h := false, c := bitOf old 7 } })
    s

/-! ### RL r (R191) -/

/-- RL B (R191). -/
def execRlB (s : State) : Result := rotateReg .b s
/-- RL C (R191). -/
def execRlC (s : State) : Result := rotateReg .c s
/-- RL D (R191). -/
def execRlD (s : State) : Result := rotateReg .d s
/-- RL E (R191). -/
def execRlE (s : State) : Result := rotateReg .e s
/-- RL H (R191). -/
def execRlH (s : State) : Result := rotateReg .h s
/-- RL L (R191). -/
def execRlL (s : State) : Result := rotateReg .l s
/-- RL A (R191). -/
def execRlA (s : State) : Result := rotateReg .a s

/-! ### BIT b,r (R192) -/

/-- BIT 0,B (R192). -/
def execBit0_B (s : State) : Result := testBit 0 .b s
/-- BIT 0,C (R192). -/
def execBit0_C (s : State) : Result := testBit 0 .c s
/-- BIT 0,D (R192). -/
def execBit0_D (s : State) : Result := testBit 0 .d s
/-- BIT 0,E (R192). -/
def execBit0_E (s : State) : Result := testBit 0 .e s
/-- BIT 0,H (R192). -/
def execBit0_H (s : State) : Result := testBit 0 .h s
/-- BIT 0,L (R192). -/
def execBit0_L (s : State) : Result := testBit 0 .l s
/-- BIT 0,A (R192). -/
def execBit0_A (s : State) : Result := testBit 0 .a s
/-- BIT 1,B (R192). -/
def execBit1_B (s : State) : Result := testBit 1 .b s
/-- BIT 1,C (R192). -/
def execBit1_C (s : State) : Result := testBit 1 .c s
/-- BIT 1,D (R192). -/
def execBit1_D (s : State) : Result := testBit 1 .d s
/-- BIT 1,E (R192). -/
def execBit1_E (s : State) : Result := testBit 1 .e s
/-- BIT 1,H (R192). -/
def execBit1_H (s : State) : Result := testBit 1 .h s
/-- BIT 1,L (R192). -/
def execBit1_L (s : State) : Result := testBit 1 .l s
/-- BIT 1,A (R192). -/
def execBit1_A (s : State) : Result := testBit 1 .a s
/-- BIT 2,B (R192). -/
def execBit2_B (s : State) : Result := testBit 2 .b s
/-- BIT 2,C (R192). -/
def execBit2_C (s : State) : Result := testBit 2 .c s
/-- BIT 2,D (R192). -/
def execBit2_D (s : State) : Result := testBit 2 .d s
/-- BIT 2,E (R192). -/
def execBit2_E (s : State) : Result := testBit 2 .e s
/-- BIT 2,H (R192). -/
def execBit2_H (s : State) : Result := testBit 2 .h s
/-- BIT 2,L (R192). -/
def execBit2_L (s : State) : Result := testBit 2 .l s
/-- BIT 2,A (R192). -/
def execBit2_A (s : State) : Result := testBit 2 .a s
/-- BIT 3,B (R192). -/
def execBit3_B (s : State) : Result := testBit 3 .b s
/-- BIT 3,C (R192). -/
def execBit3_C (s : State) : Result := testBit 3 .c s
/-- BIT 3,D (R192). -/
def execBit3_D (s : State) : Result := testBit 3 .d s
/-- BIT 3,E (R192). -/
def execBit3_E (s : State) : Result := testBit 3 .e s
/-- BIT 3,H (R192). -/
def execBit3_H (s : State) : Result := testBit 3 .h s
/-- BIT 3,L (R192). -/
def execBit3_L (s : State) : Result := testBit 3 .l s
/-- BIT 3,A (R192). -/
def execBit3_A (s : State) : Result := testBit 3 .a s
/-- BIT 4,B (R192). -/
def execBit4_B (s : State) : Result := testBit 4 .b s
/-- BIT 4,C (R192). -/
def execBit4_C (s : State) : Result := testBit 4 .c s
/-- BIT 4,D (R192). -/
def execBit4_D (s : State) : Result := testBit 4 .d s
/-- BIT 4,E (R192). -/
def execBit4_E (s : State) : Result := testBit 4 .e s
/-- BIT 4,H (R192). -/
def execBit4_H (s : State) : Result := testBit 4 .h s
/-- BIT 4,L (R192). -/
def execBit4_L (s : State) : Result := testBit 4 .l s
/-- BIT 4,A (R192). -/
def execBit4_A (s : State) : Result := testBit 4 .a s
/-- BIT 5,B (R192). -/
def execBit5_B (s : State) : Result := testBit 5 .b s
/-- BIT 5,C (R192). -/
def execBit5_C (s : State) : Result := testBit 5 .c s
/-- BIT 5,D (R192). -/
def execBit5_D (s : State) : Result := testBit 5 .d s
/-- BIT 5,E (R192). -/
def execBit5_E (s : State) : Result := testBit 5 .e s
/-- BIT 5,H (R192). -/
def execBit5_H (s : State) : Result := testBit 5 .h s
/-- BIT 5,L (R192). -/
def execBit5_L (s : State) : Result := testBit 5 .l s
/-- BIT 5,A (R192). -/
def execBit5_A (s : State) : Result := testBit 5 .a s
/-- BIT 6,B (R192). -/
def execBit6_B (s : State) : Result := testBit 6 .b s
/-- BIT 6,C (R192). -/
def execBit6_C (s : State) : Result := testBit 6 .c s
/-- BIT 6,D (R192). -/
def execBit6_D (s : State) : Result := testBit 6 .d s
/-- BIT 6,E (R192). -/
def execBit6_E (s : State) : Result := testBit 6 .e s
/-- BIT 6,H (R192). -/
def execBit6_H (s : State) : Result := testBit 6 .h s
/-- BIT 6,L (R192). -/
def execBit6_L (s : State) : Result := testBit 6 .l s
/-- BIT 6,A (R192). -/
def execBit6_A (s : State) : Result := testBit 6 .a s
/-- BIT 7,B (R192). -/
def execBit7_B (s : State) : Result := testBit 7 .b s
/-- BIT 7,C (R192). -/
def execBit7_C (s : State) : Result := testBit 7 .c s
/-- BIT 7,D (R192). -/
def execBit7_D (s : State) : Result := testBit 7 .d s
/-- BIT 7,E (R192). -/
def execBit7_E (s : State) : Result := testBit 7 .e s
/-- BIT 7,H (R192). -/
def execBit7_H (s : State) : Result := testBit 7 .h s
/-- BIT 7,L (R192). -/
def execBit7_L (s : State) : Result := testBit 7 .l s
/-- BIT 7,A (R192). -/
def execBit7_A (s : State) : Result := testBit 7 .a s

end Sys2Proof.Machine
end

