-- ==== Sys2Proof/Machine/Dispatch.lean ====
section
/-! DEFINITION. The dispatch: one arm per constructor of Instr, each one call of that instruction's own meaning. `exec i s` runs
i from the state BEFORE it, whose PC is the instruction address (10_state.md R26, R27; notes/assumptions/9.md). -/

namespace Sys2Proof.Machine

def exec (i : Instr) (s : State) : Host.Outcome State Fault Refusal :=
  match i with
  -- LD r,n8 (R101)
  | .ldB_n8 n => Sys2Proof.Machine.execLdB_n8 n s
  | .ldC_n8 n => Sys2Proof.Machine.execLdC_n8 n s
  | .ldD_n8 n => Sys2Proof.Machine.execLdD_n8 n s
  | .ldE_n8 n => Sys2Proof.Machine.execLdE_n8 n s
  | .ldH_n8 n => Sys2Proof.Machine.execLdH_n8 n s
  | .ldL_n8 n => Sys2Proof.Machine.execLdL_n8 n s
  | .ldA_n8 n => Sys2Proof.Machine.execLdA_n8 n s
  -- LD rr,n16 (R102)
  | .ldBC_n16 n => Sys2Proof.Machine.execLdBC_n16 n s
  | .ldDE_n16 n => Sys2Proof.Machine.execLdDE_n16 n s
  | .ldHL_n16 n => Sys2Proof.Machine.execLdHL_n16 n s
  | .ldSP_n16 n => Sys2Proof.Machine.execLdSP_n16 n s
  -- LD r,r' (R103)
  | .ldB_B => Sys2Proof.Machine.execLdB_B s
  | .ldB_C => Sys2Proof.Machine.execLdB_C s
  | .ldB_D => Sys2Proof.Machine.execLdB_D s
  | .ldB_E => Sys2Proof.Machine.execLdB_E s
  | .ldB_H => Sys2Proof.Machine.execLdB_H s
  | .ldB_L => Sys2Proof.Machine.execLdB_L s
  | .ldB_A => Sys2Proof.Machine.execLdB_A s
  | .ldC_B => Sys2Proof.Machine.execLdC_B s
  | .ldC_C => Sys2Proof.Machine.execLdC_C s
  | .ldC_D => Sys2Proof.Machine.execLdC_D s
  | .ldC_E => Sys2Proof.Machine.execLdC_E s
  | .ldC_H => Sys2Proof.Machine.execLdC_H s
  | .ldC_L => Sys2Proof.Machine.execLdC_L s
  | .ldC_A => Sys2Proof.Machine.execLdC_A s
  | .ldD_B => Sys2Proof.Machine.execLdD_B s
  | .ldD_C => Sys2Proof.Machine.execLdD_C s
  | .ldD_D => Sys2Proof.Machine.execLdD_D s
  | .ldD_E => Sys2Proof.Machine.execLdD_E s
  | .ldD_H => Sys2Proof.Machine.execLdD_H s
  | .ldD_L => Sys2Proof.Machine.execLdD_L s
  | .ldD_A => Sys2Proof.Machine.execLdD_A s
  | .ldE_B => Sys2Proof.Machine.execLdE_B s
  | .ldE_C => Sys2Proof.Machine.execLdE_C s
  | .ldE_D => Sys2Proof.Machine.execLdE_D s
  | .ldE_E => Sys2Proof.Machine.execLdE_E s
  | .ldE_H => Sys2Proof.Machine.execLdE_H s
  | .ldE_L => Sys2Proof.Machine.execLdE_L s
  | .ldE_A => Sys2Proof.Machine.execLdE_A s
  | .ldH_B => Sys2Proof.Machine.execLdH_B s
  | .ldH_C => Sys2Proof.Machine.execLdH_C s
  | .ldH_D => Sys2Proof.Machine.execLdH_D s
  | .ldH_E => Sys2Proof.Machine.execLdH_E s
  | .ldH_H => Sys2Proof.Machine.execLdH_H s
  | .ldH_L => Sys2Proof.Machine.execLdH_L s
  | .ldH_A => Sys2Proof.Machine.execLdH_A s
  | .ldL_B => Sys2Proof.Machine.execLdL_B s
  | .ldL_C => Sys2Proof.Machine.execLdL_C s
  | .ldL_D => Sys2Proof.Machine.execLdL_D s
  | .ldL_E => Sys2Proof.Machine.execLdL_E s
  | .ldL_H => Sys2Proof.Machine.execLdL_H s
  | .ldL_L => Sys2Proof.Machine.execLdL_L s
  | .ldL_A => Sys2Proof.Machine.execLdL_A s
  | .ldA_B => Sys2Proof.Machine.execLdA_B s
  | .ldA_C => Sys2Proof.Machine.execLdA_C s
  | .ldA_D => Sys2Proof.Machine.execLdA_D s
  | .ldA_E => Sys2Proof.Machine.execLdA_E s
  | .ldA_H => Sys2Proof.Machine.execLdA_H s
  | .ldA_L => Sys2Proof.Machine.execLdA_L s
  | .ldA_A => Sys2Proof.Machine.execLdA_A s
  -- LD r,(HL) (R104)
  | .ldB_atHL => Sys2Proof.Machine.execLdB_atHL s
  | .ldC_atHL => Sys2Proof.Machine.execLdC_atHL s
  | .ldD_atHL => Sys2Proof.Machine.execLdD_atHL s
  | .ldE_atHL => Sys2Proof.Machine.execLdE_atHL s
  | .ldH_atHL => Sys2Proof.Machine.execLdH_atHL s
  | .ldL_atHL => Sys2Proof.Machine.execLdL_atHL s
  | .ldA_atHL => Sys2Proof.Machine.execLdA_atHL s
  -- LD (HL),r (R105)
  | .ldAtHL_B => Sys2Proof.Machine.execLdAtHL_B s
  | .ldAtHL_C => Sys2Proof.Machine.execLdAtHL_C s
  | .ldAtHL_D => Sys2Proof.Machine.execLdAtHL_D s
  | .ldAtHL_E => Sys2Proof.Machine.execLdAtHL_E s
  | .ldAtHL_H => Sys2Proof.Machine.execLdAtHL_H s
  | .ldAtHL_L => Sys2Proof.Machine.execLdAtHL_L s
  | .ldAtHL_A => Sys2Proof.Machine.execLdAtHL_A s
  -- LD (BC),A (R106)
  | .ldAtBC_A => Sys2Proof.Machine.execLdAtBC_A s
  -- LD (DE),A (R107)
  | .ldAtDE_A => Sys2Proof.Machine.execLdAtDE_A s
  -- LD A,(BC) (R108)
  | .ldA_atBC => Sys2Proof.Machine.execLdA_atBC s
  -- LD A,(DE) (R109)
  | .ldA_atDE => Sys2Proof.Machine.execLdA_atDE s
  -- LD (HL+),A (R110)
  | .ldAtHLinc_A => Sys2Proof.Machine.execLdAtHLinc_A s
  -- LD (HL-),A (R111)
  | .ldAtHLdec_A => Sys2Proof.Machine.execLdAtHLdec_A s
  -- LDH (n8),A (R112)
  | .ldhAtN8_A n => Sys2Proof.Machine.execLdhAtN8_A n s
  -- LDH A,(n8) (R113)
  | .ldhA_atN8 n => Sys2Proof.Machine.execLdhA_atN8 n s
  -- LD (C),A (R114)
  | .ldAtC_A => Sys2Proof.Machine.execLdAtC_A s
  -- LD A,(C) (R115)
  | .ldA_atC => Sys2Proof.Machine.execLdA_atC s
  -- LD (a16),A (R116)
  | .ldAtA16_A a => Sys2Proof.Machine.execLdAtA16_A a s
  -- LD A,(a16) (R117)
  | .ldA_atA16 a => Sys2Proof.Machine.execLdA_atA16 a s
  -- ADD A,r (R147)
  | .addA_B => Sys2Proof.Machine.execAddA_B s
  | .addA_C => Sys2Proof.Machine.execAddA_C s
  | .addA_D => Sys2Proof.Machine.execAddA_D s
  | .addA_E => Sys2Proof.Machine.execAddA_E s
  | .addA_H => Sys2Proof.Machine.execAddA_H s
  | .addA_L => Sys2Proof.Machine.execAddA_L s
  | .addA_A => Sys2Proof.Machine.execAddA_A s
  -- ADD A,(HL) (R148)
  | .addA_atHL => Sys2Proof.Machine.execAddA_atHL s
  -- ADD A,n8 (R149)
  | .addA_n8 n => Sys2Proof.Machine.execAddA_n8 n s
  -- SUB r (R150)
  | .subB => Sys2Proof.Machine.execSubB s
  | .subC => Sys2Proof.Machine.execSubC s
  | .subD => Sys2Proof.Machine.execSubD s
  | .subE => Sys2Proof.Machine.execSubE s
  | .subH => Sys2Proof.Machine.execSubH s
  | .subL => Sys2Proof.Machine.execSubL s
  | .subA => Sys2Proof.Machine.execSubA s
  -- SUB (HL) (R151)
  | .subAtHL => Sys2Proof.Machine.execSubAtHL s
  -- SUB n8 (R152)
  | .subN8 n => Sys2Proof.Machine.execSubN8 n s
  -- CP r (R153)
  | .cpB => Sys2Proof.Machine.execCpB s
  | .cpC => Sys2Proof.Machine.execCpC s
  | .cpD => Sys2Proof.Machine.execCpD s
  | .cpE => Sys2Proof.Machine.execCpE s
  | .cpH => Sys2Proof.Machine.execCpH s
  | .cpL => Sys2Proof.Machine.execCpL s
  | .cpA => Sys2Proof.Machine.execCpA s
  -- CP (HL) (R154)
  | .cpAtHL => Sys2Proof.Machine.execCpAtHL s
  -- CP n8 (R155)
  | .cpN8 n => Sys2Proof.Machine.execCpN8 n s
  -- XOR A (R156)
  | .xorA => Sys2Proof.Machine.execXorA s
  -- INC r (R157)
  | .incB => Sys2Proof.Machine.execIncB s
  | .incC => Sys2Proof.Machine.execIncC s
  | .incD => Sys2Proof.Machine.execIncD s
  | .incE => Sys2Proof.Machine.execIncE s
  | .incH => Sys2Proof.Machine.execIncH s
  | .incL => Sys2Proof.Machine.execIncL s
  | .incA => Sys2Proof.Machine.execIncA s
  -- DEC r (R158)
  | .decB => Sys2Proof.Machine.execDecB s
  | .decC => Sys2Proof.Machine.execDecC s
  | .decD => Sys2Proof.Machine.execDecD s
  | .decE => Sys2Proof.Machine.execDecE s
  | .decH => Sys2Proof.Machine.execDecH s
  | .decL => Sys2Proof.Machine.execDecL s
  | .decA => Sys2Proof.Machine.execDecA s
  -- INC rr (R159)
  | .incBC => Sys2Proof.Machine.execIncBC s
  | .incDE => Sys2Proof.Machine.execIncDE s
  | .incHL => Sys2Proof.Machine.execIncHL s
  | .incSP => Sys2Proof.Machine.execIncSP s
  -- DEC rr (R160)
  | .decBC => Sys2Proof.Machine.execDecBC s
  | .decDE => Sys2Proof.Machine.execDecDE s
  | .decHL => Sys2Proof.Machine.execDecHL s
  | .decSP => Sys2Proof.Machine.execDecSP s
  -- JR e8 (R174)
  | .jr e => Sys2Proof.Machine.execJr e s
  -- JR NZ,e8 (R175)
  | .jrNZ e => Sys2Proof.Machine.execJrNZ e s
  -- JR Z,e8 (R176)
  | .jrZ e => Sys2Proof.Machine.execJrZ e s
  -- CALL a16 (R177)
  | .call a => Sys2Proof.Machine.execCall a s
  -- RET (R178)
  | .ret => Sys2Proof.Machine.execRet s
  -- PUSH rr (R179)
  | .pushBC => Sys2Proof.Machine.execPushBC s
  | .pushDE => Sys2Proof.Machine.execPushDE s
  | .pushHL => Sys2Proof.Machine.execPushHL s
  -- POP rr (R180)
  | .popBC => Sys2Proof.Machine.execPopBC s
  | .popDE => Sys2Proof.Machine.execPopDE s
  | .popHL => Sys2Proof.Machine.execPopHL s
  -- RLA (R190)
  | .rla => Sys2Proof.Machine.execRla s
  -- RL r (R191)
  | .rlB => Sys2Proof.Machine.execRlB s
  | .rlC => Sys2Proof.Machine.execRlC s
  | .rlD => Sys2Proof.Machine.execRlD s
  | .rlE => Sys2Proof.Machine.execRlE s
  | .rlH => Sys2Proof.Machine.execRlH s
  | .rlL => Sys2Proof.Machine.execRlL s
  | .rlA => Sys2Proof.Machine.execRlA s
  -- BIT b,r (R192)
  | .bit0_B => Sys2Proof.Machine.execBit0_B s
  | .bit0_C => Sys2Proof.Machine.execBit0_C s
  | .bit0_D => Sys2Proof.Machine.execBit0_D s
  | .bit0_E => Sys2Proof.Machine.execBit0_E s
  | .bit0_H => Sys2Proof.Machine.execBit0_H s
  | .bit0_L => Sys2Proof.Machine.execBit0_L s
  | .bit0_A => Sys2Proof.Machine.execBit0_A s
  | .bit1_B => Sys2Proof.Machine.execBit1_B s
  | .bit1_C => Sys2Proof.Machine.execBit1_C s
  | .bit1_D => Sys2Proof.Machine.execBit1_D s
  | .bit1_E => Sys2Proof.Machine.execBit1_E s
  | .bit1_H => Sys2Proof.Machine.execBit1_H s
  | .bit1_L => Sys2Proof.Machine.execBit1_L s
  | .bit1_A => Sys2Proof.Machine.execBit1_A s
  | .bit2_B => Sys2Proof.Machine.execBit2_B s
  | .bit2_C => Sys2Proof.Machine.execBit2_C s
  | .bit2_D => Sys2Proof.Machine.execBit2_D s
  | .bit2_E => Sys2Proof.Machine.execBit2_E s
  | .bit2_H => Sys2Proof.Machine.execBit2_H s
  | .bit2_L => Sys2Proof.Machine.execBit2_L s
  | .bit2_A => Sys2Proof.Machine.execBit2_A s
  | .bit3_B => Sys2Proof.Machine.execBit3_B s
  | .bit3_C => Sys2Proof.Machine.execBit3_C s
  | .bit3_D => Sys2Proof.Machine.execBit3_D s
  | .bit3_E => Sys2Proof.Machine.execBit3_E s
  | .bit3_H => Sys2Proof.Machine.execBit3_H s
  | .bit3_L => Sys2Proof.Machine.execBit3_L s
  | .bit3_A => Sys2Proof.Machine.execBit3_A s
  | .bit4_B => Sys2Proof.Machine.execBit4_B s
  | .bit4_C => Sys2Proof.Machine.execBit4_C s
  | .bit4_D => Sys2Proof.Machine.execBit4_D s
  | .bit4_E => Sys2Proof.Machine.execBit4_E s
  | .bit4_H => Sys2Proof.Machine.execBit4_H s
  | .bit4_L => Sys2Proof.Machine.execBit4_L s
  | .bit4_A => Sys2Proof.Machine.execBit4_A s
  | .bit5_B => Sys2Proof.Machine.execBit5_B s
  | .bit5_C => Sys2Proof.Machine.execBit5_C s
  | .bit5_D => Sys2Proof.Machine.execBit5_D s
  | .bit5_E => Sys2Proof.Machine.execBit5_E s
  | .bit5_H => Sys2Proof.Machine.execBit5_H s
  | .bit5_L => Sys2Proof.Machine.execBit5_L s
  | .bit5_A => Sys2Proof.Machine.execBit5_A s
  | .bit6_B => Sys2Proof.Machine.execBit6_B s
  | .bit6_C => Sys2Proof.Machine.execBit6_C s
  | .bit6_D => Sys2Proof.Machine.execBit6_D s
  | .bit6_E => Sys2Proof.Machine.execBit6_E s
  | .bit6_H => Sys2Proof.Machine.execBit6_H s
  | .bit6_L => Sys2Proof.Machine.execBit6_L s
  | .bit6_A => Sys2Proof.Machine.execBit6_A s
  | .bit7_B => Sys2Proof.Machine.execBit7_B s
  | .bit7_C => Sys2Proof.Machine.execBit7_C s
  | .bit7_D => Sys2Proof.Machine.execBit7_D s
  | .bit7_E => Sys2Proof.Machine.execBit7_E s
  | .bit7_H => Sys2Proof.Machine.execBit7_H s
  | .bit7_L => Sys2Proof.Machine.execBit7_L s
  | .bit7_A => Sys2Proof.Machine.execBit7_A s

end Sys2Proof.Machine
end

