-- ==== Sys2Proof/Machine/Fetch.lean ====
section
/-! DEFINITION. Fetching and decoding at the program counter (30_encoding.md R80): the first byte at PC, each later byte at
addr(ia + k), read through MemRead only when the decoder asks for it. -/

namespace Sys2Proof.Machine

/-- `MemRead(addr(ia + k), 1)`. -/
def State.fetchByte (s : State) (k : Nat) : Except Raised Byte :=
  match s.addr (s.pc.toNat + k) with
  | .error v => .error (.edgeFault v)
  | .ok a => .ok (s.memRead a)

/-- The instruction at PC, or the first exception that fetching and decoding it raises (R80, 60_exceptions.md R247). -/
def State.fetch (s : State) : Except Raised Instr := decodeFrom .unsupportedOpcode s.fetchByte

end Sys2Proof.Machine
end

