-- ==== Sys2Proof/Machine/Graphics.lean ====
section
/-! DEFINITION. The graphics pipeline (50_graphics.md): the tile decoder, the background compositor, the viewport extractor
and the tick. Grids are values, never state (10_state.md R40); they are indexed column first, as the spec writes
`tile[c][r]`, `bg[x][y]` and `frame[x][y]`. -/

namespace Sys2Proof.Machine

/-- A 2-bit color index (50_graphics.md R202). -/
abbrev Pixel := BitVec 2

/-- A grid of w columns and h rows, column first. -/
abbrev Grid (w h : Nat) := Vector (Vector Pixel h) w

/-- The grid whose pixel at (x, y) is `f x y`. -/
def Grid.ofFn {w h : Nat} (f : Fin w → Fin h → Pixel) : Grid w h := Vector.ofFn fun x => Vector.ofFn fun y => f x y

/-- An 8 by 8 tile (00_scope.md R9). -/
abbrev Tile := Grid 8 8
/-- The 256 by 256 background (R9). -/
abbrev Background := Grid 256 256
/-- The 160 by 144 frame value (R9, 50_graphics.md R210). -/
abbrev Frame := Grid 160 144

/-! ## Tile decoder -/

/-- The color index `2*plane1_bit(b) + plane0_bit(b)` (R202). -/
def colorIndex (p0 p1 : Byte) (b : Nat) : Pixel := BitVec.ofNat 2 (2 * bit (bitOf p1 b) + bit (bitOf p0 b))

/-- `decode_tile(base)` (R202): row r is the byte pair at base + 2r (plane 0) and base + 2r + 1 (plane 1), and column c
is bit 7 - c. -/
def decodeTile (m : Memory) (base : Nat) : Tile :=
  Grid.ofFn fun c r => colorIndex (gfxRead m (base + 2 * r.val)) (gfxRead m (base + 2 * r.val + 1)) (7 - c.val)

/-! ## Background compositor -/

/-- The base of the tile map (R205). -/
def tileMapBase : Nat := 0x9800
/-- The base of the tile data (R206). -/
def tileDataBase : Nat := 0x8000

/-- The tile index of map cell (col, row): the byte at `0x9800 + 32*row + col` (R205). -/
def tileIndex (m : Memory) (col row : Nat) : Byte := gfxRead m (tileMapBase + 32 * row + col)

/-- The tile of an index, at `0x8000 + index*16` (R206). -/
def tileOf (m : Memory) (index : Byte) : Tile := decodeTile m (tileDataBase + index.toNat * 16)

/-- The tiles of the 32 by 32 map cells, column first. -/
def mapTiles (m : Memory) : Vector (Vector Tile 32) 32 :=
  Vector.ofFn fun col => Vector.ofFn fun row => tileOf m (tileIndex m col.val row.val)

/-- `compose()` (R207): the background pixel at (8*col + c, 8*row + r) is pixel (c, r) of the tile of map cell
(col, row). -/
def compose (m : Memory) : Background :=
  let tiles := mapTiles m
  Grid.ofFn fun x y => tiles[x.val / 8][y.val / 8][x.val % 8][y.val % 8]

/-! ## Viewport extractor -/

/-- `viewport(bg, scx, scy)` (R209): `frame[x][y] = bg[(scx + x) mod 256][(scy + y) mod 256]`. -/
def viewport (bg : Background) (scx scy : Byte) : Frame :=
  Grid.ofFn fun x y => bg[(scx.toNat + x.val) % 256][(scy.toNat + y.val) % 256]

/-- The boolean view of a pixel, `index ≠ 0` (R210). -/
def Pixel.lit (p : Pixel) : Bool := p != 0

/-! ## The tick -/

/-- The frame a render emits (R211): the viewport of the background composed from current memory, at the current SCX and
the given SCY. -/
def render (m : Memory) (scy : Byte) : Frame := viewport (compose m) (gfxRead m scxAddr.toNat) scy

/-- `tick()` (R211): a render exactly when SCY differs from its value at the previous render, or there was none. -/
def tick (s : State) : State × Option Frame :=
  let scy := gfxRead s.mem scyAddr.toNat
  if s.lastScy = some scy then (s, none)
  else ({ s with lastScy := some scy }, some (render s.mem scy))

end Sys2Proof.Machine
end

