-- ==== Sys2Proof/Machine/Driver.lean ====
section
/-! DEFINITION. The emulation driver and the host boundary (55_driver.md): a system step is one interpreter step followed by
one tick; what it hands to the host (a frame, a fault report) is an output beside the state, for "nothing else persists
between system steps" (R230; notes/assumptions/7.md). -/

namespace Sys2Proof.Machine

/-- What one system step hands to the host (R235). -/
structure Output where
  /-- to the frame sink, at a render -/
  frame : Option Frame
  /-- the fault report, at the fault -/
  report : Option FaultRecord
  deriving DecidableEq, Repr

/-- What a system step answers. -/
abbrev DriverResult := Host.Outcome (State × Output) Fault Refusal

/-- The interpreter's `step()` (30_encoding.md R80): fetch, decode and execute; an exception of the fetch or the decode is
taken in the state as it is. -/
def interpret (s : State) : Result :=
  match s.fetch with
  | .error x => .next (s.takeFault x)
  | .ok i => exec i s

/-- The driver's half of a system step (R231, R232): after a completed step one tick; after a faulting step the record is
reported and no tick runs. -/
def afterStep (t : State) : State × Output :=
  match t.status with
  | .running => ((tick t).1, { frame := (tick t).2, report := none })
  | .faulted r => (t, { frame := none, report := some r })

/-- `system_step()` (R231); it requires a Running status (60_exceptions.md R244). -/
def systemStep (s : State) : DriverResult :=
  match s.status with
  | .faulted r => .fault (.halted r)
  | .running =>
    match interpret s with
    | .next t => .next (afterStep t)
    | .fault f => .fault f
    | .refused r => .refused r

/-! ## The run, with the host's decisions (R231, R233, R234) -/

/-- What the host decides at the boundary before a step: let it go on, pause (it will be asked again), or shut down; a shutdown
may follow a pause (notes/assumptions/17.md). -/
inductive HostDecision where
  | proceed
  | pause
  | shutdown
  deriving DecidableEq, Repr

/-- What the host receives: the state at a call of the debug hook, a frame, a fault report. -/
inductive HostEvent where
  | hook (s : State)
  | frame (f : Frame)
  | report (r : FaultRecord)
  deriving DecidableEq, Repr

/-- The events of one system step's output. -/
def Output.events (o : Output) : List HostEvent :=
  o.frame.toList.map .frame ++ o.report.toList.map .report

/-- `run()` (R231) under the host's decisions, one a boundary: the final state and what the host received, in order. With a
hook installed it is called once before every step; a pause only delays the step; a shutdown takes effect between system
steps; the run ends when the status is Faulted (R233, R234). A shutdown that comes while the hook is pausing ends the run
before the paused step, and that pause records no hook event: DESIGN CHOICE, unsafe, for R231 puts the hook inside the
system step and R234 and R235 do not say whether that step still runs (notes/assumptions/17.md). -/
def run (hookInstalled : Bool) : List HostDecision → State → State × List HostEvent
  | [], s => (s, [])
  | .shutdown :: _, s => (s, [])
  | .pause :: rest, s => run hookInstalled rest s
  | .proceed :: rest, s =>
    match systemStep s with
    | .next (t, o) =>
      let (u, events) := run hookInstalled rest t
      (u, (if hookInstalled then [.hook s] else []) ++ o.events ++ events)
    | .fault _ => (s, [])
    | .refused _ => (s, [])

end Sys2Proof.Machine
end

