-- ==== Sys2Proof/Machine/Step.lean ====
section
/-! DEFINITION. The machine's step is the driver's system step without its outputs (55_driver.md R231), and the host's way to put
an instruction where the next step fetches it. -/

namespace Sys2Proof.Machine

/-- One system step: an interpreter step and the tick after it, or the fault it takes (R231). -/
def step (s : State) : Host.Outcome State Fault Refusal :=
  match systemStep s with
  | .next (t, _) => .next t
  | .fault f => .fault f
  | .refused r => .refused r

/-- The three bytes of a table word stored at PC, PC + 1 and PC + 2 (wrapping), where the next step fetches. It stands for the
program load (notes/assumptions/12.md). -/
def State.withFetchWord (s : State) (nbits w : Nat) : State :=
  { s with mem := s.mem.placeAt s.pc (Sys2Proof.tableBytes nbits w) }

end Sys2Proof.Machine
end

