-- ==== Sys2Proof/Machine/Load.lean ====
section
/-! DEFINITION. Reset and program load, one operation run once before the first step (70_reset_and_hazards.md R260 to R265,
60_exceptions.md R245). It is how a program comes to run; State.reset is its result for two empty images and the parameters
State.reset fixes (notes/assumptions/12.md). -/

namespace Sys2Proof.Machine

/-- The parameters of a load (00_scope.md R10): the machine's own, and the three that matter only here. -/
structure LoadParams where
  cfg : Config
  /-- REG0: A, B, C, D, E, H, L (D11: OPEN) -/
  regs0 : Regs
  /-- REG0: the four flags -/
  flags0 : Flags
  /-- REG0: SP -/
  sp0 : Word
  /-- MEM0, as its difference from the all-zero default (D13) -/
  mem0 : Memory
  /-- LAST_SCY_INIT (D15) -/
  lastScyInit : Option Byte
  deriving DecidableEq, Repr

/-- The record of a failed load: its kind, and no CPU fields, "since no machine state exists yet" (R245). -/
structure LoadFailureRecord where
  kind : FaultKind
  deriving DecidableEq, Repr

/-- What a load answers: a machine that is Running, or LoadFailure and no run (R245, 55_driver.md R235). -/
inductive LoadResult where
  | ready (s : State)
  | failed (r : LoadFailureRecord)
  deriving DecidableEq, Repr

/-- The longest image that fits, 0x10000 bytes (R260, D14). -/
def imageLimit : Nat := 0x10000

/-- The boot image at 0x0000, then the cartridge image from its own offset 0x100 at 0x0100, over any overlap (R260 to
R262). -/
def placeImages (m : Memory) (boot cart : List Byte) : Memory :=
  Memory.place (Memory.place m 0 boot) 0x100 (cart.drop 0x100)

/-- The machine a successful load leaves (R260). -/
def loadedState (p : LoadParams) (boot cart : List Byte) : State where
  regs := p.regs0
  flags := p.flags0
  sp := p.sp0
  pc := 0
  mem := placeImages p.mem0 boot cart
  lastScy := p.lastScyInit
  status := .running
  cfg := p.cfg
  draws := 0

/-- `load(boot, cart)` (R260); `none` is an image the host cannot supply (R245). -/
def load (p : LoadParams) (boot cart : Option (List Byte)) : LoadResult :=
  match boot, cart with
  | some b, some c =>
    if b.length > imageLimit ∨ c.length > imageLimit then .failed { kind := .loadFailure }
    else .ready (loadedState p b c)
  | none, _ => .failed { kind := .loadFailure }
  | some _, none => .failed { kind := .loadFailure }

end Sys2Proof.Machine
end

