-- ==== Sys2Proof/Safety.lean ====
section
/-! DEFINITION. The terms claims are stated in: what a good state and a safe step are, when an instruction's addresses fit, and
the footprint tables of 10_state.md R24 and R32 and 20_memory.md R60 (what each instruction may write), written from
those tables and not from the meanings. -/

namespace Sys2Proof.Machine

/-! ## Good states -/

/-- The machine has not faulted (10_state.md R39). -/
abbrev State.Running (s : State) : Prop := s.status = .running

/-- A fault record that describes the state holding it: a fault leaves the state as it was before the step
(60_exceptions.md R242, R243), so the record's copies stay equal to the registers they copy. -/
def State.recordAgrees (s : State) (r : FaultRecord) : Bool :=
  r.address == s.pc && r.pc == s.pc && r.sp == s.sp && r.regs == s.regs && r.flags == s.flags &&
    r.packedF == s.flags.packed && r.window == s.faultWindow s.pc && r.kind != .loadFailure

/-- A Faulted status holds a record that agrees with the state. -/
def State.statusAgrees (s : State) : Bool :=
  match s.status with
  | .running => true
  | .faulted r => s.recordAgrees r

/-- The invariant of the machine: memory is in canonical form and inside the address space, DUMP_WINDOW is positive, and
a Faulted status holds the record of this very state. -/
def State.inv (s : State) : Bool := s.mem.wf && s.cfg.wf && s.statusAgrees

/-- The invariant as a proposition. -/
abbrev State.Inv (s : State) : Prop := s.inv = true

/-- A safe run's step: it answers a next state that is still Running. -/
def stepsSafely (s : State) : Bool :=
  match step s with
  | .next t => t.status == .running
  | .fault _ => false
  | .refused _ => false

/-- The states some number of steps reaches. -/
inductive Reachable (start : State) : State → Prop where
  | refl : Reachable start start
  | step {s t : State} : Reachable start s → Machine.step s = .next t → Reachable start t

/-! ## When the addresses of an instruction fit (20_memory.md R62) -/

/-- PC_next of an instruction of `len` bytes is an address, or EDGE_MODE makes it one. -/
abbrev PcFits (s : State) (len : Nat) : Prop := s.cfg.edgeMode = .wrap ∨ s.pc.toNat + len ≤ 0xFFFF

/-- Every byte of an instruction of `len` bytes at PC has an address, or EDGE_MODE gives it one. -/
abbrev BytesFit (s : State) (len : Nat) : Prop := s.cfg.edgeMode = .wrap ∨ s.pc.toNat + len ≤ 0x10000

/-- The target of a relative jump, PC_next + e8, is an address, or EDGE_MODE makes it one. -/
abbrev TargetFits (s : State) (e : Int) : Prop :=
  s.cfg.edgeMode = .wrap ∨ (0 ≤ (s.pc.toNat : Int) + 2 + e ∧ (s.pc.toNat : Int) + 2 + e ≤ 0xFFFF)

/-- The addresses of a push fit: SP is not 0 or 1 (42_control_stack.md R173). -/
abbrev PushFits (s : State) : Prop := s.cfg.edgeMode = .wrap ∨ 2 ≤ s.sp.toNat

/-- The addresses of a pop fit: SP is not 0xFFFE or 0xFFFF (42_control_stack.md R173). -/
abbrev PopFits (s : State) : Prop := s.cfg.edgeMode = .wrap ∨ s.sp.toNat ≤ 0xFFFD

/-- The three bytes at PC, PC + 1 and PC + 2, as MemRead gives them. -/
def State.bytesAtPc (s : State) : List Byte := [s.memRead s.pc, s.memRead (s.pc + 1), s.memRead (s.pc + 2)]

end Sys2Proof.Machine

namespace Sys2Proof

open Sys2Proof.Machine (State)

/-! ## Footprints -/

/-- The registers of a 16-bit operand; SP is none of the seven. -/
def LoadPair.regs : LoadPair → List Reg
  | .bc => [.b, .c] | .de => [.d, .e] | .hl => [.h, .l] | .sp => []

/-- The registers of a pair. -/
def RegPair.regs : RegPair → List Reg
  | .bc => [.b, .c] | .de => [.d, .e] | .hl => [.h, .l]

/-- The 16-bit operand is SP. -/
def LoadPair.isSp : LoadPair → Bool
  | .bc => false | .de => false | .hl => false | .sp => true

/-- The registers an instruction may write (the "written by" column of 10_state.md R24). -/
def Form.destRegs : Form → List Reg
  | .ldReg_n8 r _ => [r]
  | .ldPair_n16 p _ => p.regs
  | .ldReg_reg dst _ => [dst]
  | .ldReg_atHL r => [r]
  | .ldAtHL_reg _ | .ldAtBC_A | .ldAtDE_A | .ldhAtN8_A _ | .ldAtC_A | .ldAtA16_A _ => []
  | .ldA_atBC | .ldA_atDE | .ldhA_atN8 _ | .ldA_atC | .ldA_atA16 _ => [.a]
  | .ldAtHLinc_A | .ldAtHLdec_A => [.h, .l]
  | .addA_reg _ | .addA_atHL | .addA_n8 _ | .subReg _ | .subAtHL | .subN8 _ | .xorA | .rla => [.a]
  | .cpReg _ | .cpAtHL | .cpN8 _ | .bitReg _ _ => []
  | .incReg r | .decReg r | .rlReg r => [r]
  | .incPair p | .decPair p => p.regs
  | .jr _ | .jrNZ _ | .jrZ _ | .call _ | .ret | .pushPair _ => []
  | .popPair p => p.regs

/-- SP is written: LD SP,n16; INC SP; DEC SP; PUSH; POP; CALL; RET (10_state.md R24). -/
def Form.writesSp : Form → Bool
  | .ldPair_n16 p _ | .incPair p | .decPair p => p.isSp
  | .call _ | .ret | .pushPair _ | .popPair _ => true
  | .ldReg_n8 _ _ | .ldReg_reg _ _ | .ldReg_atHL _ | .ldAtHL_reg _ | .ldAtBC_A | .ldAtDE_A | .ldA_atBC | .ldA_atDE
  | .ldAtHLinc_A | .ldAtHLdec_A | .ldhAtN8_A _ | .ldhA_atN8 _ | .ldAtC_A | .ldA_atC | .ldAtA16_A _ | .ldA_atA16 _
  | .addA_reg _ | .addA_atHL | .addA_n8 _ | .subReg _ | .subAtHL | .subN8 _ | .cpReg _ | .cpAtHL | .cpN8 _ | .xorA
  | .incReg _ | .decReg _ | .jr _ | .jrNZ _ | .jrZ _ | .rla | .rlReg _ | .bitReg _ _ => false

/-- The rows of the flag table (10_state.md R32). -/
inductive FlagRow where
  /-- "–" throughout -/
  | none
  /-- ADD, SUB, CP: all four, H and C drawn in reference mode -/
  | arith
  /-- INC r, DEC r: Z, N and H; C only by a draw in reference mode -/
  | step
  /-- XOR A, RLA, RL r: all four, in both modes -/
  | exact
  /-- BIT b,r: Z, N and H; C never -/
  | test
  deriving DecidableEq, Repr

/-- The row of R32 an instruction is in. -/
def Form.flagRow : Form → FlagRow
  | .ldReg_n8 _ _ | .ldPair_n16 _ _ | .ldReg_reg _ _ | .ldReg_atHL _ | .ldAtHL_reg _ | .ldAtBC_A | .ldAtDE_A | .ldA_atBC
  | .ldA_atDE | .ldAtHLinc_A | .ldAtHLdec_A | .ldhAtN8_A _ | .ldhA_atN8 _ | .ldAtC_A | .ldA_atC | .ldAtA16_A _
  | .ldA_atA16 _ | .incPair _ | .decPair _ | .jr _ | .jrNZ _ | .jrZ _ | .call _ | .ret | .pushPair _
  | .popPair _ => .none
  | .addA_reg _ | .addA_atHL | .addA_n8 _ | .subReg _ | .subAtHL | .subN8 _ | .cpReg _ | .cpAtHL | .cpN8 _ => .arith
  | .incReg _ | .decReg _ => .step
  | .xorA | .rla | .rlReg _ => .exact
  | .bitReg _ _ => .test

/-- The addresses a form stores to, by the addressing mode of its rule, in the state before it (20_memory.md R60,
40_loads.md R100, 42_control_stack.md R170: a push stores at SP and SP - 1). -/
def Form.storeAddresses (f : Form) (s : State) : List Word :=
  match f with
  | .ldAtHL_reg _ | .ldAtHLinc_A | .ldAtHLdec_A => [Machine.atPair .hl s]
  | .ldAtBC_A => [Machine.atPair .bc s]
  | .ldAtDE_A => [Machine.atPair .de s]
  | .ldhAtN8_A n => [Machine.atN8 n s]
  | .ldAtC_A => [Machine.atC s]
  | .ldAtA16_A a => [Machine.atA16 a s]
  | .call _ | .pushPair _ => [s.sp, s.sp - 1]
  | .ldReg_n8 _ _ | .ldPair_n16 _ _ | .ldReg_reg _ _ | .ldReg_atHL _ | .ldA_atBC | .ldA_atDE | .ldhA_atN8 _ | .ldA_atC
  | .ldA_atA16 _ | .addA_reg _ | .addA_atHL | .addA_n8 _ | .subReg _ | .subAtHL | .subN8 _ | .cpReg _ | .cpAtHL
  | .cpN8 _ | .xorA | .incReg _ | .decReg _ | .incPair _ | .decPair _ | .jr _ | .jrNZ _ | .jrZ _ | .ret | .popPair _
  | .rla | .rlReg _ | .bitReg _ _ => []

end Sys2Proof
end

