-- ==== Sys2Proof/Certificates/Slice0/Obligations.lean ====
section
/-! DEFINITION. The statements for the provers. An instruction's statement gives its encoding (the bytes the decoder reads as
it) and the whole next state `exec` answers; `exec i s` runs i from the state before it, whose PC is the instruction
address. `PcFits` and its kin say that an address computed by the step lies in 0..0xFFFF or EDGE_MODE = wrap; the
parameters are fields of the state, so a statement over every state holds for every FLAG_MODE, EDGE_MODE, LY_VALUE and
DUMP_WINDOW. Every opcode byte but 0xCB is general knowledge by the spec's own account (93_implementation_defined.md G1). -/

namespace Sys2Proof.Claims

open Sys2Proof Sys2Proof.Machine

/-- The register codes of R84, as numbers. -/
def code : Reg → Nat
  | .b => 0 | .c => 1 | .d => 2 | .e => 3 | .h => 4 | .l => 5 | .a => 7

/-- The pair codes of LD rr,n16, INC rr and DEC rr (R85). -/
def pairCode : LoadPair → Nat
  | .bc => 0 | .de => 1 | .hl => 2 | .sp => 3

/-- The pair codes of PUSH and POP (R85). -/
def stackCode : RegPair → Nat
  | .bc => 0 | .de => 1 | .hl => 2

/-- A byte given as a number. -/
def byte (n : Nat) : Byte := BitVec.ofNat 8 n

/-- Whatever follows them, the bytes decode to the instruction and the rest is left. -/
def Decodes (bytes : List Byte) (i : Instr) : Prop := ∀ rest, decode (bytes ++ rest) = .ok (i, rest)

/-- The address in HL, `H:L`. -/
def hl (s : State) : Word := s.regs.h ++ s.regs.l

/-- The word in a pair, high register first. -/
def pairOf (s : State) : RegPair → Word
  | .bc => s.regs.b ++ s.regs.c
  | .de => s.regs.d ++ s.regs.e
  | .hl => s.regs.h ++ s.regs.l

/-- The registers with a word written to a pair: `reg[hi] <- v >> 8`, `reg[lo] <- v & 0xFF`. -/
def withPair (g : Regs) (v : Word) : RegPair → Regs
  | .bc => { g with b := v.extractLsb' 8 8, c := v.extractLsb' 0 8 }
  | .de => { g with d := v.extractLsb' 8 8, e := v.extractLsb' 0 8 }
  | .hl => { g with h := v.extractLsb' 8 8, l := v.extractLsb' 0 8 }

/-- The high byte of a word. -/
def hi (v : Word) : Byte := v.extractLsb' 8 8

/-- The low byte of a word. -/
def lo (v : Word) : Byte := v.extractLsb' 0 8

/-- The state with another FLAG_MODE. -/
def withFlagMode (s : State) (m : FlagMode) : State := { s with cfg := { s.cfg with flagMode := m } }

/-- The state with other N and H flags. -/
def withNH (s : State) (n h : Bool) : State := { s with flags := { s.flags with n := n, h := h } }

/-- The 107 unsupported first bytes, as 30_encoding.md R91 lists them. -/
def unsupportedPrimary : List Nat :=
  [0x00, 0x07, 0x08, 0x09, 0x0F, 0x10, 0x19, 0x1F, 0x27, 0x29, 0x2A, 0x2F, 0x30, 0x34, 0x35, 0x36, 0x37, 0x38, 0x39, 0x3A,
   0x3F, 0x76] ++
  [0x88, 0x89, 0x8A, 0x8B, 0x8C, 0x8D, 0x8E, 0x8F, 0x98, 0x99, 0x9A, 0x9B, 0x9C, 0x9D, 0x9E, 0x9F] ++
  [0xA0, 0xA1, 0xA2, 0xA3, 0xA4, 0xA5, 0xA6, 0xA7, 0xA8, 0xA9, 0xAA, 0xAB, 0xAC, 0xAD, 0xAE] ++
  [0xB0, 0xB1, 0xB2, 0xB3, 0xB4, 0xB5, 0xB6, 0xB7] ++
  [0xC0, 0xC2, 0xC3, 0xC4, 0xC7, 0xC8, 0xCA, 0xCC, 0xCE, 0xCF] ++
  [0xD0, 0xD2, 0xD3, 0xD4, 0xD7, 0xD8, 0xD9, 0xDA, 0xDB, 0xDC, 0xDD, 0xDE, 0xDF] ++
  [0xE3, 0xE4, 0xE6, 0xE7, 0xE8, 0xE9, 0xEB, 0xEC, 0xED, 0xEE, 0xEF] ++
  [0xF1, 0xF3, 0xF4, 0xF5, 0xF6, 0xF7, 0xF8, 0xF9, 0xFB, 0xFC, 0xFD, 0xFF]

/-- What the host receives beside the hook's calls: frames and fault reports. -/
def notHook : HostEvent → Bool
  | .hook _ => false
  | .frame _ => true
  | .report _ => true

/-- The admitted second bytes after 0xCB (30_encoding.md R92); the other 193 are unsupported. -/
def admittedCB (op2 : Nat) : Prop :=
  (0x10 ≤ op2 ∧ op2 ≤ 0x15) ∨ op2 = 0x17 ∨ (0x40 ≤ op2 ∧ op2 ≤ 0x7F ∧ op2 % 8 ≠ 6)

end Sys2Proof.Claims

open Sys2Proof Sys2Proof.Machine Sys2Proof.Claims

/-! ## Encoding (30_encoding.md) -/

/-- Decoding an encoded well-formed instruction gives it back, with every operand at every value (R83, R84, R85, R87, R88). -/
def Obligations.DecodeOfEncodeIsTheInstruction : Prop :=
  ∀ (i : Instr), WellFormed i → ∀ rest, decode (encode i ++ rest) = .ok (i, rest)

/-- The other direction: bytes that decode are the encoding of what they decode to, so no two instructions share a word
and no bit of a decoded word is ignored. -/
def Obligations.DecodedBytesAreTheEncoding : Prop :=
  ∀ bytes i rest, decode bytes = .ok (i, rest) → WellFormed i ∧ bytes = encode i ++ rest

/-- Words written out from the spec's encodings decode to the instructions they stand for: one of each family. -/
def Obligations.WordsFromTheSpecDecode : Prop :=
  decode [0x3E, 0x80] = .ok (.ldA_n8 0x80, []) ∧
  decode [0x31, 0xFE, 0xFF] = .ok (.ldSP_n16 0xFFFE, []) ∧
  decode [0x57] = .ok (.ldD_A, []) ∧
  decode [0x32] = .ok (.ldAtHLdec_A, []) ∧
  decode [0xE0, 0x42] = .ok (.ldhAtN8_A 0x42, []) ∧
  decode [0xEA, 0x10, 0x99] = .ok (.ldAtA16_A 0x9910, []) ∧
  decode [0xBE] = .ok (.cpAtHL, []) ∧
  decode [0x20, 0xFB] = .ok (.jrNZ (-5), []) ∧
  decode [0xCD, 0x95, 0x00] = .ok (.call 0x0095, []) ∧
  decode [0xC5] = .ok (.pushBC, []) ∧
  decode [0xCB, 0x11] = .ok (.rlC, []) ∧
  decode [0xCB, 0x7C] = .ok (.bit7_H, [])

/-! ## The step (30_encoding.md R80, 55_driver.md R231, 60_exceptions.md) -/

/-- A step runs the decoded instruction. When the bytes at PC decode to i and lie in the address space (or EDGE_MODE =
wrap), the interpreter's step is `exec i`; if that completes, one tick follows and its frame is the step's output, and if
it faults, the record is the output and no tick runs. -/
def Obligations.StepRunsTheDecodedInstruction : Prop :=
  ∀ (s : State) (i : Instr) (rest : List Byte),
    s.Running → decode s.bytesAtPc = .ok (i, rest) → BytesFit s i.length →
    ∃ t, exec i s = .next t ∧
      (t.Running → systemStep s = .next ((tick t).1, { frame := (tick t).2, report := none }) ∧
        step s = .next (tick t).1) ∧
      (∀ r, t.status = .faulted r → systemStep s = .next (t, { frame := none, report := some r }) ∧
        step s = .next t)

/-- An unsupported opcode faults at decode: exactly the listed first bytes, and exactly the second bytes after 0xCB outside
R92's list, wherever they stand; nothing but the status changes (R241, R91, R92; the admitted set is decision D1). -/
def Obligations.UnsupportedOpcodeFaults : Prop :=
  (∀ s : State, s.Running → (s.memRead s.pc).toNat ∈ unsupportedPrimary →
    step s = .next (s.takeFault (.unsupportedOpcode false (s.memRead s.pc)))) ∧
  (∀ s : State, s.Running → s.memRead s.pc = 0xCB → BytesFit s 2 → ¬ admittedCB (s.memRead (s.pc + 1)).toNat →
    step s = .next (s.takeFault (.unsupportedOpcode true (s.memRead (s.pc + 1))))) ∧
  (∀ (op : Byte) (rest : List Byte), op ≠ 0xCB →
    (decode (op :: rest) = .error (.unsupported false op) ↔ op.toNat ∈ unsupportedPrimary)) ∧
  (∀ (op2 : Byte) (rest : List Byte),
    decode (0xCB :: op2 :: rest) = .error (.unsupported true op2) ↔ ¬ admittedCB op2.toNat)

/-- In EDGE_MODE = fault an instruction that does not fit below 0x10000 takes an EdgeFault (R62, R246, R247 items 1 to 3;
decision D9): a step faults with edge_value 0x10000 at the byte after 0xCB, or (for an admitted opcode) at the operand
bytes or PC_next; and every instruction whose PC_next does not fit takes the EdgeFault of PC_next with none of its effect. -/
def Obligations.EdgeFaultsAtTheTopOfMemory : Prop :=
  (∀ s : State, s.Running → s.cfg.edgeMode = .fault → s.pc = 0xFFFF → s.memRead s.pc = 0xCB →
    step s = .next (s.takeFault (.edgeFault 0x10000))) ∧
  (∀ (s : State) (i : Instr) (rest : List Byte),
    s.Running → s.cfg.edgeMode = .fault → decode s.bytesAtPc = .ok (i, rest) →
    0xFFFF < s.pc.toNat + i.length → step s = .next (s.takeFault (.edgeFault 0x10000))) ∧
  (∀ (i : Instr) (s : State), s.cfg.edgeMode = .fault → 0xFFFF < s.pc.toNat + i.length →
    exec i s = .next (s.takeFault (.edgeFault (s.pc.toNat + i.length))))

/-- A Faulted machine has no further step or tick (R244, R39). That it stops with the fault `halted` is the model's form of
"no further step" (notes/assumptions/8.md). -/
def Obligations.FaultedMachineStops : Prop :=
  ∀ (s : State) (r : FaultRecord), s.status = .faulted r →
    step s = .fault (.halted r) ∧ systemStep s = .fault (.halted r)

/-- A fault is precise (R243, decision D17): the state is the one before the step but for the status, the record describes
it, and no frame is emitted (R232, decision D33). -/
def Obligations.FaultsArePrecise : Prop :=
  ∀ (s t : State) (o : Output) (r : FaultRecord),
    systemStep s = .next (t, o) → t.status = .faulted r →
    t = { s with status := .faulted r } ∧ s.recordAgrees r = true ∧ o = { frame := none, report := some r }

/-- The fault record, field by field (R242, decisions D16 and D27). For an EdgeFault, `prefixed = false` is the model's
reading (notes/assumptions/10.md). -/
def Obligations.FaultRecordFields : Prop :=
  ∀ (s : State) (x : Raised) (r : FaultRecord), (s.takeFault x).status = .faulted r →
    s.takeFault x = { s with status := .faulted r } ∧
    r.address = s.pc ∧ r.pc = s.pc ∧ r.sp = s.sp ∧ r.regs = s.regs ∧ r.flags = s.flags ∧ r.packedF = s.flags.packed ∧
    (∀ p op, x = .unsupportedOpcode p op →
      r.kind = .unsupportedOpcode ∧ r.prefixed = p ∧ r.opcode = op ∧ r.edgeValue = none) ∧
    (∀ v, x = .edgeFault v →
      r.kind = .edgeFault ∧ r.prefixed = false ∧ r.opcode = s.memRead s.pc ∧ r.edgeValue = some v) ∧
    r.window.length = s.cfg.dumpWindow ∧
    (∀ k, k < s.cfg.dumpWindow →
      r.window[k]? = some (s.memRead (BitVec.ofInt 16 ((s.pc.toNat : Int) - (s.cfg.dumpWindow / 2 : Nat) + (k : Int)))))

/-- In EDGE_MODE = wrap no step takes an EdgeFault (R246, decision D9). -/
def Obligations.WrapModeTakesNoEdgeFault : Prop :=
  ∀ (s t : State) (r : FaultRecord), s.Running → s.cfg.edgeMode = .wrap → step s = .next t →
    t.status = .faulted r → r.kind = .unsupportedOpcode ∧ r.edgeValue = none

/-- Every step keeps the invariant: memory in canonical form inside the 65536-byte space, a positive DUMP_WINDOW, and a
Faulted status only with the record of this very state. -/
def Obligations.StepKeepsInvariant : Prop :=
  ∀ s t : State, s.Inv → step s = .next t → t.Inv

/-- The reset state meets the invariant, is Running and starts at PC 0x0000 (R41, R264; D12; the registers' zeros are the
model's choice, notes/assumptions/3.md, and are not stated here). -/
def Obligations.ResetMeetsInvariant : Prop :=
  State.reset.Inv ∧ State.reset.Running ∧ State.reset.pc = 0x0000

/-- No instruction halts the machine and none is refused: a Running machine always has a next state, and every instruction
answers one in every state (R234, R255). -/
def Obligations.RunningMachineAlwaysSteps : Prop :=
  (∀ s : State, s.Running → ∃ t, step s = .next t) ∧
  (∀ (i : Instr) (s : State), ∃ t, exec i s = .next t)

/-- No step changes a parameter, and draws are taken only in FLAG_MODE = reference, two at a time (R10, R40, R146). -/
def Obligations.StepsKeepTheParameters : Prop :=
  ∀ s t : State, step s = .next t →
    t.cfg = s.cfg ∧ (s.cfg.flagMode = .hardware → t.draws = s.draws) ∧ (t.draws = s.draws ∨ t.draws = s.draws + 2)

/-- After every completed system step the last rendered SCY is the current SCY, and a frame was emitted exactly when the
step left SCY different from its value at the last render (R211, R270; R38: only a render writes last_scy). -/
def Obligations.FramesFollowScy : Prop :=
  ∀ (s t : State) (o : Output), systemStep s = .next (t, o) → t.Running →
    t.lastScy = some (t.mem.byteAt 0xFF42) ∧ (o.frame.isSome ↔ s.lastScy ≠ some (t.mem.byteAt 0xFF42))

/-! ## Loads and stores (40_loads.md) -/

/-- LD r,n8 (R101). -/
def Obligations.LoadImmediateByte : Prop :=
  ∀ (r : Reg) (n : Byte),
    Decodes [byte (0x06 + 8 * code r), n] (Form.ldReg_n8 r n).instr ∧
    ∀ s : State, PcFits s 2 →
      exec (Form.ldReg_n8 r n).instr s = .next { s with pc := s.pc + 2, regs := s.regs.set r n }

/-- LD rr,n16 (R102). -/
def Obligations.LoadImmediateWord : Prop :=
  ∀ (p : LoadPair) (b1 b2 : Byte),
    Decodes [byte (0x01 + 16 * pairCode p), b1, b2] (Form.ldPair_n16 p (b2 ++ b1)).instr ∧
    ∀ s : State, PcFits s 3 →
      exec (Form.ldPair_n16 p (b2 ++ b1)).instr s =
        .next (match p with
          | .bc => { s with pc := s.pc + 3, regs := { s.regs with b := b2, c := b1 } }
          | .de => { s with pc := s.pc + 3, regs := { s.regs with d := b2, e := b1 } }
          | .hl => { s with pc := s.pc + 3, regs := { s.regs with h := b2, l := b1 } }
          | .sp => { s with pc := s.pc + 3, sp := b2 ++ b1 })

/-- LD r,r' (R103). -/
def Obligations.MoveRegister : Prop :=
  ∀ dst src : Reg,
    Decodes [byte (0x40 + 8 * code dst + code src)] (Form.ldReg_reg dst src).instr ∧
    ∀ s : State, PcFits s 1 →
      exec (Form.ldReg_reg dst src).instr s =
        .next { s with pc := s.pc + 1, regs := s.regs.set dst (s.regs.get src) }

/-- LD r,(HL) (R104): the address is H:L before the write; the read is a MemRead, so 0xFF44 gives LY_VALUE. The forms that
exist are decision D2. -/
def Obligations.LoadFromHL : Prop :=
  ∀ r : Reg,
    Decodes [byte (0x46 + 8 * code r)] (Form.ldReg_atHL r).instr ∧
    ∀ s : State, PcFits s 1 →
      exec (Form.ldReg_atHL r).instr s =
        .next { s with pc := s.pc + 1, regs := s.regs.set r (s.memRead (hl s)) }

/-- LD (HL),r (R105), and byte 0x76 is not admitted. -/
def Obligations.StoreToHL : Prop :=
  (∀ r : Reg,
    Decodes [byte (0x70 + code r)] (Form.ldAtHL_reg r).instr ∧
    ∀ s : State, PcFits s 1 →
      exec (Form.ldAtHL_reg r).instr s = .next { s.memWrite (hl s) (s.regs.get r) with pc := s.pc + 1 }) ∧
  (∀ rest, decode (0x76 :: rest) = .error (.unsupported false 0x76))

/-- LD (BC),A and LD (DE),A (R106, R107). -/
def Obligations.StoreAccumulatorThroughPair : Prop :=
  Decodes [0x02] .ldAtBC_A ∧ Decodes [0x12] .ldAtDE_A ∧
  ∀ s : State, PcFits s 1 →
    exec .ldAtBC_A s = .next { s.memWrite (s.regs.b ++ s.regs.c) s.regs.a with pc := s.pc + 1 } ∧
    exec .ldAtDE_A s = .next { s.memWrite (s.regs.d ++ s.regs.e) s.regs.a with pc := s.pc + 1 }

/-- LD A,(BC) and LD A,(DE) (R108, R109; decision D2). -/
def Obligations.LoadAccumulatorThroughPair : Prop :=
  Decodes [0x0A] .ldA_atBC ∧ Decodes [0x1A] .ldA_atDE ∧
  ∀ s : State, PcFits s 1 →
    exec .ldA_atBC s =
      .next { s with pc := s.pc + 1, regs := { s.regs with a := s.memRead (s.regs.b ++ s.regs.c) } } ∧
    exec .ldA_atDE s =
      .next { s with pc := s.pc + 1, regs := { s.regs with a := s.memRead (s.regs.d ++ s.regs.e) } }

/-- LD (HL+),A and LD (HL-),A (R110, R111): A is stored where HL pointed, then HL steps mod 2^16 in every EDGE_MODE. -/
def Obligations.StoreAccumulatorAndStepHL : Prop :=
  Decodes [0x22] .ldAtHLinc_A ∧ Decodes [0x32] .ldAtHLdec_A ∧
  ∀ s : State, PcFits s 1 →
    exec .ldAtHLinc_A s =
      .next { s.memWrite (hl s) s.regs.a with
        pc := s.pc + 1, regs := { s.regs with h := hi (hl s + 1), l := lo (hl s + 1) } } ∧
    exec .ldAtHLdec_A s =
      .next { s.memWrite (hl s) s.regs.a with
        pc := s.pc + 1, regs := { s.regs with h := hi (hl s - 1), l := lo (hl s - 1) } }

/-- LDH (n8),A and LD (C),A (R112, R114): A goes to 0xFF00 + n8 or 0xFF00 + C. -/
def Obligations.HighPageStores : Prop :=
  (∀ n, Decodes [0xE0, n] (.ldhAtN8_A n)) ∧ Decodes [0xE2] .ldAtC_A ∧
  (∀ (n : Byte) (s : State), PcFits s 2 →
    exec (.ldhAtN8_A n) s = .next { s.memWrite (0xFF#8 ++ n) s.regs.a with pc := s.pc + 2 }) ∧
  (∀ s : State, PcFits s 1 →
    exec .ldAtC_A s = .next { s.memWrite (0xFF#8 ++ s.regs.c) s.regs.a with pc := s.pc + 1 })

/-- LDH A,(n8) and LD A,(C) (R113, R115). -/
def Obligations.HighPageLoads : Prop :=
  (∀ n, Decodes [0xF0, n] (.ldhA_atN8 n)) ∧ Decodes [0xF2] .ldA_atC ∧
  (∀ (n : Byte) (s : State), PcFits s 2 →
    exec (.ldhA_atN8 n) s = .next { s with pc := s.pc + 2, regs := { s.regs with a := s.memRead (0xFF#8 ++ n) } }) ∧
  (∀ s : State, PcFits s 1 →
    exec .ldA_atC s = .next { s with pc := s.pc + 1, regs := { s.regs with a := s.memRead (0xFF#8 ++ s.regs.c) } })

/-- LD (a16),A and LD A,(a16) (R116, R117; decision D3): a16 is b2*0x100 + b1. -/
def Obligations.AbsoluteMoves : Prop :=
  ∀ b1 b2 : Byte,
    Decodes [0xEA, b1, b2] (.ldAtA16_A (b2 ++ b1)) ∧ Decodes [0xFA, b1, b2] (.ldA_atA16 (b2 ++ b1)) ∧
    ∀ s : State, PcFits s 3 →
      exec (.ldAtA16_A (b2 ++ b1)) s = .next { s.memWrite (b2 ++ b1) s.regs.a with pc := s.pc + 3 } ∧
      exec (.ldA_atA16 (b2 ++ b1)) s =
        .next { s with pc := s.pc + 3, regs := { s.regs with a := s.memRead (b2 ++ b1) } }

/-! ## Arithmetic (41_alu.md) -/

/-- add8, sub8, inc8 and dec8: the result mod 256 and the four flags (R142 to R145; the formulas are SM83 general knowledge
by the spec's own account, 93 G6). -/
def Obligations.FlagFunctions : Prop :=
  (∀ a b : Byte,
    (add8 a b).result = a + b ∧
    ((add8 a b).flags.z = true ↔ (a.toNat + b.toNat) % 256 = 0) ∧ (add8 a b).flags.n = false ∧
    ((add8 a b).flags.h = true ↔ 0xF < (a &&& 0xF).toNat + (b &&& 0xF).toNat) ∧
    ((add8 a b).flags.c = true ↔ 0xFF < a.toNat + b.toNat)) ∧
  (∀ a b : Byte,
    (sub8 a b).result = a - b ∧
    ((sub8 a b).flags.z = true ↔ a = b) ∧ (sub8 a b).flags.n = true ∧
    ((sub8 a b).flags.h = true ↔ (a &&& 0xF).toNat < (b &&& 0xF).toNat) ∧
    ((sub8 a b).flags.c = true ↔ a.toNat < b.toNat)) ∧
  (∀ (v : Byte) (c : Bool),
    (inc8 v c).result = v + 1 ∧
    ((inc8 v c).flags.z = true ↔ v = 0xFF) ∧ (inc8 v c).flags.n = false ∧
    ((inc8 v c).flags.h = true ↔ v &&& 0xF = 0xF) ∧ (inc8 v c).flags.c = c) ∧
  (∀ (v : Byte) (c : Bool),
    (dec8 v c).result = v - 1 ∧
    ((dec8 v c).flags.z = true ↔ v = 1) ∧ (dec8 v c).flags.n = true ∧
    ((dec8 v c).flags.h = true ↔ v &&& 0xF = 0) ∧ (dec8 v c).flags.c = c)

/-- ADD A,r; ADD A,(HL); ADD A,n8 (R147, R148, R149): A becomes the sum and F its flags, in either FLAG_MODE. -/
def Obligations.AddToAccumulator : Prop :=
  (∀ r : Reg,
    Decodes [byte (0x80 + code r)] (Form.addA_reg r).instr ∧
    ∀ s : State, PcFits s 1 →
      exec (Form.addA_reg r).instr s =
        .next ({ s with
          pc := s.pc + 1, regs := { s.regs with a := (add8 s.regs.a (s.regs.get r)).result } }.writeFlags
            (add8 s.regs.a (s.regs.get r)).flags)) ∧
  (Decodes [0x86] .addA_atHL ∧
    ∀ s : State, PcFits s 1 →
      exec .addA_atHL s =
        .next ({ s with
          pc := s.pc + 1, regs := { s.regs with a := (add8 s.regs.a (s.memRead (hl s))).result } }.writeFlags
            (add8 s.regs.a (s.memRead (hl s))).flags)) ∧
  (∀ n : Byte,
    Decodes [0xC6, n] (.addA_n8 n) ∧
    ∀ s : State, PcFits s 2 →
      exec (.addA_n8 n) s =
        .next ({ s with pc := s.pc + 2, regs := { s.regs with a := (add8 s.regs.a n).result } }.writeFlags
          (add8 s.regs.a n).flags))

/-- SUB r; SUB (HL); SUB n8 (R150, R151, R152): A becomes the difference and F its flags, in either FLAG_MODE. -/
def Obligations.SubtractFromAccumulator : Prop :=
  (∀ r : Reg,
    Decodes [byte (0x90 + code r)] (Form.subReg r).instr ∧
    ∀ s : State, PcFits s 1 →
      exec (Form.subReg r).instr s =
        .next ({ s with
          pc := s.pc + 1, regs := { s.regs with a := (sub8 s.regs.a (s.regs.get r)).result } }.writeFlags
            (sub8 s.regs.a (s.regs.get r)).flags)) ∧
  (Decodes [0x96] .subAtHL ∧
    ∀ s : State, PcFits s 1 →
      exec .subAtHL s =
        .next ({ s with
          pc := s.pc + 1, regs := { s.regs with a := (sub8 s.regs.a (s.memRead (hl s))).result } }.writeFlags
            (sub8 s.regs.a (s.memRead (hl s))).flags)) ∧
  (∀ n : Byte,
    Decodes [0xD6, n] (.subN8 n) ∧
    ∀ s : State, PcFits s 2 →
      exec (.subN8 n) s =
        .next ({ s with pc := s.pc + 2, regs := { s.regs with a := (sub8 s.regs.a n).result } }.writeFlags
          (sub8 s.regs.a n).flags))

/-- CP r; CP (HL); CP n8 (R153, R154, R155): the flags of the difference; A is unchanged. -/
def Obligations.CompareWithAccumulator : Prop :=
  (∀ r : Reg,
    Decodes [byte (0xB8 + code r)] (Form.cpReg r).instr ∧
    ∀ s : State, PcFits s 1 →
      exec (Form.cpReg r).instr s =
        .next ({ s with pc := s.pc + 1 }.writeFlags (sub8 s.regs.a (s.regs.get r)).flags)) ∧
  (Decodes [0xBE] .cpAtHL ∧
    ∀ s : State, PcFits s 1 →
      exec .cpAtHL s = .next ({ s with pc := s.pc + 1 }.writeFlags (sub8 s.regs.a (s.memRead (hl s))).flags)) ∧
  (∀ n : Byte,
    Decodes [0xFE, n] (.cpN8 n) ∧
    ∀ s : State, PcFits s 2 →
      exec (.cpN8 n) s = .next ({ s with pc := s.pc + 2 }.writeFlags (sub8 s.regs.a n).flags))

/-- XOR A (R156): A = 0, Z set, N, H and C clear, from any prior state and in both FLAG_MODEs. -/
def Obligations.XorAClearsAccumulator : Prop :=
  Decodes [0xAF] .xorA ∧
  (∀ op : Nat, (0xA8 ≤ op ∧ op ≤ 0xAE) ∨ op = 0xEE → ∀ rest,
    decode (byte op :: rest) = .error (.unsupported false (byte op))) ∧
  ∀ s : State, PcFits s 1 →
    exec .xorA s =
      .next { s with
        pc := s.pc + 1, regs := { s.regs with a := 0 },
        flags := { z := true, n := false, h := false, c := false } }

/-- INC r and DEC r (R157, R158; decision D19): the result and Z, N, H of inc8 and dec8, C kept in hardware mode. -/
def Obligations.IncrementDecrementRegister : Prop :=
  ∀ r : Reg,
    Decodes [byte (0x04 + 8 * code r)] (Form.incReg r).instr ∧
    Decodes [byte (0x05 + 8 * code r)] (Form.decReg r).instr ∧
    ∀ s : State, PcFits s 1 →
      exec (Form.incReg r).instr s =
        .next ({ s with
          pc := s.pc + 1, regs := s.regs.set r (inc8 (s.regs.get r) s.flags.c).result }.writeFlags
            (inc8 (s.regs.get r) s.flags.c).flags) ∧
      exec (Form.decReg r).instr s =
        .next ({ s with
          pc := s.pc + 1, regs := s.regs.set r (dec8 (s.regs.get r) s.flags.c).result }.writeFlags
            (dec8 (s.regs.get r) s.flags.c).flags)

/-- INC rr and DEC rr (R159, R160; decisions D6, D19): a pair or SP steps mod 2^16 in every EDGE_MODE, no flag written. -/
def Obligations.IncrementDecrementPair : Prop :=
  (∀ p : LoadPair,
    Decodes [byte (0x03 + 16 * pairCode p)] (Form.incPair p).instr ∧
    Decodes [byte (0x0B + 16 * pairCode p)] (Form.decPair p).instr) ∧
  ∀ s : State, PcFits s 1 →
    (exec .incBC s = .next { s with pc := s.pc + 1, regs := withPair s.regs (pairOf s .bc + 1) .bc } ∧
     exec .incDE s = .next { s with pc := s.pc + 1, regs := withPair s.regs (pairOf s .de + 1) .de } ∧
     exec .incHL s = .next { s with pc := s.pc + 1, regs := withPair s.regs (pairOf s .hl + 1) .hl } ∧
     exec .incSP s = .next { s with pc := s.pc + 1, sp := s.sp + 1 }) ∧
    (exec .decBC s = .next { s with pc := s.pc + 1, regs := withPair s.regs (pairOf s .bc - 1) .bc } ∧
     exec .decDE s = .next { s with pc := s.pc + 1, regs := withPair s.regs (pairOf s .de - 1) .de } ∧
     exec .decHL s = .next { s with pc := s.pc + 1, regs := withPair s.regs (pairOf s .hl - 1) .hl } ∧
     exec .decSP s = .next { s with pc := s.pc + 1, sp := s.sp - 1 })

/-- FLAG_MODE = reference (R146; decisions D30, D32): ADD, SUB, CP, INC r and DEC r do what they do in hardware mode, but H
and C are two draws, of which nothing is known; the draw counter is the model's own (notes/assumptions/6.md). -/
def Obligations.ReferenceModeDrawsHAndC : Prop :=
  ∀ (i : Instr) (s : State), (i.form.flagRow = .arith ∨ i.form.flagRow = .step) → PcFits s i.length →
    ∃ t, exec i (withFlagMode s .hardware) = .next t ∧
      exec i (withFlagMode s .reference) =
        .next { withFlagMode t .reference with
          flags := { z := t.flags.z, n := t.flags.n, h := Config.draw s.draws, c := Config.draw (s.draws + 1) },
          draws := s.draws + 2 }

/-- Every other instruction is the same in both FLAG_MODEs (R140, R146; decision D32). -/
def Obligations.OtherInstructionsIgnoreFlagMode : Prop :=
  ∀ (i : Instr) (s t : State), i.form.flagRow ≠ .arith → i.form.flagRow ≠ .step →
    exec i (withFlagMode s .hardware) = .next t →
    exec i (withFlagMode s .reference) = .next (withFlagMode t .reference)

/-! ## Control and stack (42_control_stack.md) -/

/-- JR e8 (R174): PC = PC_next + e8, e8 the second byte in two's complement; in EDGE_MODE = fault a target outside
0..0xFFFF is an EdgeFault. -/
def Obligations.JumpRelative : Prop :=
  (∀ b1 : Byte, Decodes [0x18, b1] (.jr b1.toInt)) ∧
  (∀ (e : Int) (s : State), PcFits s 2 → TargetFits s e →
    exec (.jr e) s = .next { s with pc := s.pc + 2 + BitVec.ofInt 16 e }) ∧
  (∀ (e : Int) (s : State), PcFits s 2 → ¬ TargetFits s e →
    exec (.jr e) s = .next (s.takeFault (.edgeFault (s.pc.toNat + 2 + e))))

/-- JR NZ,e8 and JR Z,e8 (R175, R176): as JR when Z is 0, or 1; otherwise PC stays PC_next and the target is not computed
(decision D9). -/
def Obligations.JumpRelativeOnZero : Prop :=
  (∀ b1 : Byte, Decodes [0x20, b1] (.jrNZ b1.toInt) ∧ Decodes [0x28, b1] (.jrZ b1.toInt)) ∧
  (∀ (e : Int) (s : State), PcFits s 2 →
    (s.flags.z = true → exec (.jrNZ e) s = .next { s with pc := s.pc + 2 }) ∧
    (s.flags.z = false → exec (.jrZ e) s = .next { s with pc := s.pc + 2 })) ∧
  (∀ (e : Int) (s : State), PcFits s 2 → TargetFits s e →
    (s.flags.z = false → exec (.jrNZ e) s = .next { s with pc := s.pc + 2 + BitVec.ofInt 16 e }) ∧
    (s.flags.z = true → exec (.jrZ e) s = .next { s with pc := s.pc + 2 + BitVec.ofInt 16 e })) ∧
  (∀ (e : Int) (s : State), PcFits s 2 → ¬ TargetFits s e →
    (s.flags.z = false → exec (.jrNZ e) s = .next (s.takeFault (.edgeFault (s.pc.toNat + 2 + e)))) ∧
    (s.flags.z = true → exec (.jrZ e) s = .next (s.takeFault (.edgeFault (s.pc.toNat + 2 + e)))))

/-- push16 and pop16 (R170, R171): high byte at SP, low byte at SP - 1, SP down by 2; low byte from SP + 1, high byte from
SP + 2, SP up by 2. At SP 0, 1, 0xFFFE and 0xFFFF the wrap and the refusals are R173 and R62 (decision D9); the order of a
push's two writes is decision D31, and nothing can observe it. -/
def Obligations.StackDiscipline : Prop :=
  (∀ (v : Word) (s : State), PushFits s →
    push16 v s = .ok { (s.memWrite s.sp (hi v)).memWrite (s.sp - 1) (lo v) with sp := s.sp - 2 }) ∧
  (∀ (v : Word) (s : State), ¬ PushFits s → push16 v s = .error (-1)) ∧
  (∀ s : State, PopFits s →
    pop16 s = .ok (s.memRead (s.sp + 2) ++ s.memRead (s.sp + 1), { s with sp := s.sp + 2 })) ∧
  (∀ s : State, ¬ PopFits s → pop16 s = .error 0x10000)

/-- CALL a16 (R177): PC_next is pushed (decision D34) and PC becomes the target, b2*0x100 + b1. -/
def Obligations.CallPushesReturnAddress : Prop :=
  ∀ b1 b2 : Byte,
    Decodes [0xCD, b1, b2] (.call (b2 ++ b1)) ∧
    ∀ s : State, PcFits s 3 → PushFits s →
      exec (.call (b2 ++ b1)) s =
        .next { (s.memWrite s.sp (hi (s.pc + 3))).memWrite (s.sp - 1) (lo (s.pc + 3)) with
          sp := s.sp - 2, pc := b2 ++ b1 }

/-- RET (R178): PC becomes the word popped from SP + 1 and SP + 2 (R171); in EDGE_MODE = fault a pop at the edge is an
EdgeFault (R173; decision D9). The conditional RETs and RETI are unsupported (R178). -/
def Obligations.ReturnPopsPc : Prop :=
  Decodes [0xC9] .ret ∧
  (∀ s : State, PcFits s 1 → PopFits s →
    exec .ret s = .next { s with sp := s.sp + 2, pc := s.memRead (s.sp + 2) ++ s.memRead (s.sp + 1) }) ∧
  (∀ s : State, PcFits s 1 → ¬ PopFits s → exec .ret s = .next (s.takeFault (.edgeFault 0x10000))) ∧
  (∀ op ∈ [0xC0, 0xC8, 0xD0, 0xD8, 0xD9], ∀ rest, decode (byte op :: rest) = .error (.unsupported false (byte op)))

/-- PUSH rr and POP rr (R179, R180; decision D4). -/
def Obligations.PushAndPopPair : Prop :=
  ∀ p : RegPair,
    Decodes [byte (0xC5 + 16 * stackCode p)] (Form.pushPair p).instr ∧
    Decodes [byte (0xC1 + 16 * stackCode p)] (Form.popPair p).instr ∧
    (∀ s : State, PcFits s 1 → PushFits s →
      exec (Form.pushPair p).instr s =
        .next { (s.memWrite s.sp (hi (pairOf s p))).memWrite (s.sp - 1) (lo (pairOf s p)) with
          pc := s.pc + 1, sp := s.sp - 2 }) ∧
    (∀ s : State, PcFits s 1 → PopFits s →
      exec (Form.popPair p).instr s =
        .next { s with
          pc := s.pc + 1, sp := s.sp + 2,
          regs := withPair s.regs (s.memRead (s.sp + 2) ++ s.memRead (s.sp + 1)) p })

/-- At the stack's edges in EDGE_MODE = fault (R173, R246; decision D9): a push at SP 0 or 1 is EdgeFault(-1), a pop at SP
0xFFFE or 0xFFFF is EdgeFault(0x10000), and nothing else changes. -/
def Obligations.StackEdgeFaults : Prop :=
  ∀ s : State, s.cfg.edgeMode = .fault →
    (s.sp.toNat < 2 →
      (PcFits s 1 → ∀ p : RegPair, exec (Form.pushPair p).instr s = .next (s.takeFault (.edgeFault (-1)))) ∧
      (PcFits s 3 → ∀ a : Word, exec (.call a) s = .next (s.takeFault (.edgeFault (-1))))) ∧
    (0xFFFE ≤ s.sp.toNat → PcFits s 1 →
      (∀ p : RegPair, exec (Form.popPair p).instr s = .next (s.takeFault (.edgeFault 0x10000))) ∧
      exec .ret s = .next (s.takeFault (.edgeFault 0x10000)))

/-- Push and pop are inverses (R172, derived there): away from the LY cell a POP after a PUSH gives the pushed word and the
old SP, for every SP in EDGE_MODE = wrap and for 2..0xFFFF in fault; and a RET after a CALL resumes after the CALL. -/
def Obligations.PopUndoesPush : Prop :=
  ∀ s : State, PushFits s → s.sp ≠ 0xFF44 → s.sp - 1 ≠ 0xFF44 →
    (∀ p q : RegPair, PcFits s 2 →
      ∃ t u, exec (Form.pushPair p).instr s = .next t ∧ exec (Form.popPair q).instr t = .next u ∧
        pairOf u q = pairOf s p ∧ u.sp = s.sp) ∧
    (∀ a : Word, PcFits s 3 → (s.cfg.edgeMode = .wrap ∨ a.toNat + 1 ≤ 0xFFFF) →
      ∃ t u, exec (.call a) s = .next t ∧ exec .ret t = .next u ∧ u.pc = s.pc + 3 ∧ u.sp = s.sp)

/-! ## Rotate and bit test (43_rotate_bit.md) -/

/-- RLA and RL r (R190, R191; decisions D5, D36): the byte shifts left by one, C comes in at bit 0 and bit 7 goes out to C;
RLA clears Z, RL sets it by the result. -/
def Obligations.RotateLeftThroughCarry : Prop :=
  (Decodes [0x17] .rla ∧
    ∀ s : State, PcFits s 1 →
      exec .rla s =
        .next { s with
          pc := s.pc + 1,
          regs := { s.regs with a := (s.regs.a <<< 1) ||| (if s.flags.c then 1 else 0) },
          flags := { z := false, n := false, h := false, c := s.regs.a.getLsbD 7 } }) ∧
  ∀ r : Reg,
    Decodes [0xCB, byte (0x10 + code r)] (Form.rlReg r).instr ∧
    ∀ s : State, PcFits s 2 →
      exec (Form.rlReg r).instr s =
        .next { s with
          pc := s.pc + 2,
          regs := s.regs.set r ((s.regs.get r <<< 1) ||| (if s.flags.c then 1 else 0)),
          flags :=
            { z := ((s.regs.get r <<< 1) ||| (if s.flags.c then (1 : Byte) else 0)) == 0
              n := false
              h := false
              c := (s.regs.get r).getLsbD 7 } }

/-- BIT b,r (R192; decision D35): Z is the complement of bit b, N clear, H set, C and the register unchanged. -/
def Obligations.TestBitSetsZero : Prop :=
  ∀ (b : Fin 8) (r : Reg),
    Decodes [0xCB, byte (0x40 + 8 * b.val + code r)] (Form.bitReg b r).instr ∧
    ∀ s : State, PcFits s 2 →
      exec (Form.bitReg b r).instr s =
        .next { s with
          pc := s.pc + 2,
          flags := { z := !(s.regs.get r).getLsbD b.val, n := false, h := true, c := s.flags.c } }

/-! ## Frames and whole-machine rules -/

/-- What every instruction leaves of memory: every cell but those it stores to, whose addresses its rule's addressing mode
computes in the state before it; a form that stores nothing leaves all of memory (20_memory.md R60, R63). -/
def Obligations.MemoryFrame : Prop :=
  ∀ (i : Instr) (s t : State), exec i s = .next t →
    (∀ k : Nat, (∀ a ∈ i.form.storeAddresses s, k ≠ a.toNat) → t.mem.byteAt k = s.mem.byteAt k) ∧
    (∀ b : Word, b ∉ i.form.storeAddresses s → t.memRead b = s.memRead b)

/-- What every instruction leaves of the register file: every register but its destinations, and SP but for the stack
instructions and those that name SP (10_state.md R24). -/
def Obligations.RegisterFrame : Prop :=
  ∀ (i : Instr) (s t : State), exec i s = .next t →
    (∀ r : Reg, r ∉ i.form.destRegs → t.regs.get r = s.regs.get r) ∧
    (i.form.writesSp = false → t.sp = s.sp)

/-- What every instruction leaves of the flags (10_state.md R32): the loads, jumps, stack instructions and INC rr, DEC rr
leave all four; BIT leaves C; INC r and DEC r leave C in FLAG_MODE = hardware. -/
def Obligations.FlagFrame : Prop :=
  ∀ (i : Instr) (s t : State), exec i s = .next t →
    (i.form.flagRow = .none → t.flags = s.flags) ∧
    (i.form.flagRow = .test → t.flags.c = s.flags.c) ∧
    (i.form.flagRow = .step → s.cfg.flagMode = .hardware → t.flags.c = s.flags.c)

/-- What every instruction leaves of the rest (R38, R39, R40): last_scy and the parameters always; the status, unless it is
an EdgeFault and then nothing else has changed; the draw counter unless H and C are drawn. -/
def Obligations.HiddenStateFrame : Prop :=
  ∀ (i : Instr) (s t : State), exec i s = .next t →
    t.lastScy = s.lastScy ∧ t.cfg = s.cfg ∧
    (t.status = s.status ∨ ∃ v, t = s.takeFault (.edgeFault v)) ∧
    (t.draws = s.draws ∨
      (s.cfg.flagMode = .reference ∧ (i.form.flagRow = .arith ∨ i.form.flagRow = .step)))

/-- No instruction reads N or H (10_state.md R31, derived there): two completed runs that differ only in N and H differ
only in N and H. -/
def Obligations.NoInstructionReadsNOrH : Prop :=
  ∀ (i : Instr) (s t : State) (n h : Bool), s.Running → exec i s = .next t → t.Running →
    ∃ t', exec i (withNH s n h) = .next t' ∧ withNH t' false false = withNH t false false

/-- F's low nibble is zero and the packed byte is Z*0x80 + N*0x40 + H*0x20 + C*0x10 (10_state.md R30). -/
def Obligations.FlagByteHasZeroLowNibble : Prop :=
  ∀ f : Flags,
    f.packed.toNat = f.z.toNat * 0x80 + f.n.toNat * 0x40 + f.h.toNat * 0x20 + f.c.toNat * 0x10 ∧
    f.packed &&& 0x0F = 0

/-- A read returns the value of the latest write to its byte, LY reads as LY_VALUE whatever is written, and a write to LY
changes nothing (20_memory.md R52, R64, 10_state.md R35; decision D10). -/
def Obligations.MemoryReadsLatestWrite : Prop :=
  (∀ (s : State) (a b : Word) (v : Byte),
    (s.memWrite a v).memRead b =
      if b = 0xFF44 then s.cfg.lyValue else if b = a then v else s.memRead b) ∧
  (∀ (s : State) (v : Byte), s.memWrite 0xFF44 v = s)

/-! ## Graphics (50_graphics.md) -/

/-- The tile decoder (R202; decision D26). -/
def Obligations.TileDecoderPixels : Prop :=
  ∀ (m : Memory) (base : Nat) (c r : Nat) (hc : c < 8) (hr : r < 8),
    ((decodeTile m base)[c][r]).toNat =
      2 * ((m.byteAt (base + 2 * r + 1)).getLsbD (7 - c)).toNat + ((m.byteAt (base + 2 * r)).getLsbD (7 - c)).toNat

/-- The background in closed form (R207, derived there from R202, R205 and R206). -/
def Obligations.BackgroundClosedForm : Prop :=
  ∀ (m : Memory) (x y : Nat) (hx : x < 256) (hy : y < 256) (idx : Nat),
    idx = (m.byteAt (0x9800 + 32 * (y / 8) + x / 8)).toNat →
    ((compose m)[x][y]).toNat =
      2 * ((m.byteAt (0x8000 + 16 * idx + 2 * (y % 8) + 1)).getLsbD (7 - x % 8)).toNat +
        ((m.byteAt (0x8000 + 16 * idx + 2 * (y % 8))).getLsbD (7 - x % 8)).toNat

/-- The viewport wraps on both axes (R209), and a frame a tick emits is the viewport at the SCX and SCY cells. -/
def Obligations.ViewportWrapsOnBothAxes : Prop :=
  (∀ (bg : Background) (scx scy : Byte) (x y : Nat) (hx : x < 160) (hy : y < 144),
    (viewport bg scx scy)[x][y] =
      (bg[(scx.toNat + x) % 256]'(Nat.mod_lt _ (by decide)))[(scy.toNat + y) % 256]'(Nat.mod_lt _ (by decide))) ∧
  (∀ (s : State) (f : Frame), (tick s).2 = some f →
    f = viewport (compose s.mem) (s.mem.byteAt 0xFF43) (s.mem.byteAt 0xFF42))

/-- The tick (R211): a render exactly when SCY differs from its value at the previous render, or there was none (decision
D15), showing the background at the current SCX and SCY. -/
def Obligations.TickRendersWhenScyChanges : Prop :=
  ∀ s : State,
    (s.lastScy = some (s.mem.byteAt 0xFF42) → tick s = (s, none)) ∧
    (s.lastScy ≠ some (s.mem.byteAt 0xFF42) →
      tick s =
        ({ s with lastScy := some (s.mem.byteAt 0xFF42) },
         some (viewport (compose s.mem) (s.mem.byteAt 0xFF43) (s.mem.byteAt 0xFF42))))

/-- No graphics operation writes anything but last_scy (R200). -/
def Obligations.GraphicsWriteOnlyLastScy : Prop :=
  ∀ s : State, (tick s).1 = { s with lastScy := (tick s).1.lastScy }

/-- The pipeline reads only the tile data 0x8000..0x8FFF, the tile map 0x9800..0x9BFF, SCY and SCX (20_memory.md R54): two
machines that agree there and on last_scy emit the same frame, whatever else they hold. -/
def Obligations.GraphicsReadOnlyTheirCells : Prop :=
  ∀ s t : State, s.lastScy = t.lastScy →
    (∀ k : Nat, (0x8000 ≤ k ∧ k ≤ 0x8FFF) ∨ (0x9800 ≤ k ∧ k ≤ 0x9BFF) ∨ k = 0xFF42 ∨ k = 0xFF43 →
      s.mem.byteAt k = t.mem.byteAt k) →
    (tick s).2 = (tick t).2

/-! ## Load and driver (70_reset_and_hazards.md, 55_driver.md) -/

/-- The load (R260 to R263, R245; decisions D11 to D15): images that fit give a Running machine at PC 0 with REG0 and with
the cartridge from 0x100 over the boot image over MEM0; a missing or oversize image gives LoadFailure. That the machine of
the two empty images is State.reset is the model's fixing of the parameters (notes/assumptions/2.md to 5.md). -/
def Obligations.LoadPlacesTheImages : Prop :=
  (∀ (p : LoadParams) (boot cart : List Byte), boot.length ≤ 0x10000 → cart.length ≤ 0x10000 →
    ∃ s, load p (some boot) (some cart) = .ready s ∧
      s.regs = p.regs0 ∧ s.flags = p.flags0 ∧ s.sp = p.sp0 ∧ s.pc = 0x0000 ∧ s.lastScy = p.lastScyInit ∧ s.Running ∧
      s.cfg = p.cfg ∧
      ∀ k : Nat, k < 0x10000 →
        s.mem.byteAt k =
          if 0x100 ≤ k ∧ k < cart.length then cart.getD k 0
          else if k < boot.length then boot.getD k 0
          else p.mem0.byteAt k) ∧
  (∀ (p : LoadParams) (boot cart : Option (List Byte)),
    (boot = none ∨ cart = none ∨ (∃ b, boot = some b ∧ 0x10000 < b.length) ∨ (∃ c, cart = some c ∧ 0x10000 < c.length)) →
    load p boot cart = .failed { kind := .loadFailure })

/-- The debug hook and the host's pauses change nothing: the run ends in the same state with or without a hook, and with or
without pauses, and frames and reports are the same (R233, R236; decision D28). For a shutdown during a pause this rests on the
model's choice that the paused step does not run (notes/assumptions/17.md). -/
def Obligations.HookAndPausesChangeNothing : Prop :=
  ∀ (decisions : List HostDecision) (s : State),
    (run true decisions s).1 = (run false (decisions.filter (· ≠ .pause)) s).1 ∧
    (run true decisions s).2.filter notHook =
      (run false (decisions.filter (· ≠ .pause)) s).2
end

