-- ==== Sys2Proof/Laws/Decode.lean ====
section
/-! SUPPORT. Bytes and words taken apart and put together again, and the signed displacement byte. -/

namespace Sys2Proof

/-- A word put together is its two bytes side by side. -/
theorem wordOf_append (a b : Byte) : wordOf a b = a ++ b := by
  apply BitVec.eq_of_toNat_eq
  rw [BitVec.toNat_append]
  simp [wordOf]
  rw [← Nat.shiftLeft_add_eq_or_of_lt b.isLt, Nat.shiftLeft_eq]
  have := a.isLt
  have := b.isLt
  omega

/-- The high byte as a slice. -/
theorem hiByte_eq (v : Word) : hiByte v = v.extractLsb' 8 8 := by
  apply BitVec.eq_of_toNat_eq
  simp [hiByte, Nat.shiftRight_eq_div_pow]

/-- The low byte as a slice. -/
theorem loByte_eq (v : Word) : loByte v = v.extractLsb' 0 8 := by
  apply BitVec.eq_of_toNat_eq
  simp [loByte]

@[simp] theorem wordOf_hiByte_loByte (v : Word) : wordOf (hiByte v) (loByte v) = v := by
  apply BitVec.eq_of_toNat_eq
  simp [wordOf, hiByte, loByte]
  omega

@[simp] theorem hiByte_wordOf (a b : Byte) : hiByte (wordOf a b) = a := by
  apply BitVec.eq_of_toNat_eq
  have := b.isLt
  simp [wordOf, hiByte]
  omega

@[simp] theorem loByte_wordOf (a b : Byte) : loByte (wordOf a b) = b := by
  apply BitVec.eq_of_toNat_eq
  have := b.isLt
  simp [wordOf, loByte] <;> omega

/-- `sext` is the two's complement reading (00_scope.md R12). -/
theorem sext_eq_toInt (b : Byte) : sext b = b.toInt := by
  have := b.isLt
  simp only [sext, BitVec.toInt]
  split <;> split <;> first | rfl | omega

/-- The displacement a byte reads as fits. -/
theorem displacementFits_sext (b : Byte) : displacementFits (sext b) = true := by
  revert b
  decide

/-- A displacement that fits is read back from its byte. -/
theorem sext_displacementByte (e : Int) (h : displacementFits e = true) : sext (displacementByte e) = e := by
  simp [displacementFits] at h
  rw [sext_eq_toInt, displacementByte, BitVec.toInt_ofInt, Int.bmod_def]
  simp
  split <;> omega

/-- The byte of the displacement a byte reads as is that byte. -/
theorem displacementByte_sext (b : Byte) : displacementByte (sext b) = b := by
  rw [sext_eq_toInt]
  simp [displacementByte]

end Sys2Proof
end

