-- ==== Sys2Proof/Laws/DecodeTable.lean ====
section
/-! SUPPORT. The opcode maps against the encoder, row by row: every cell's instruction is encoded as that cell's byte, which is
what decode-then-encode needs of the maps. -/

namespace Sys2Proof

/-- What a cell of the primary map must be: a handler whose instructions are encoded as this opcode byte and their operand
bytes. -/
def PrimarySound (op : Byte) : Prop :=
  match primary op with
  | none => True
  | some (.p1 i) => encode i = [op] ∧ WellFormed i
  | some (.n8 f) => ∀ n, encode (f n) = [op, n] ∧ WellFormed (f n)
  | some (.e8 f) => ∀ e, encode (f e) = [op, displacementByte e] ∧ (displacementFits e = true → WellFormed (f e))
  | some (.p3 f) => ∀ n, encode (f n) = [op, loByte n, hiByte n] ∧ WellFormed (f n)

/-- What a cell of the CB map must be. -/
def CbSound (op2 : Byte) : Prop :=
  match cbTable op2 with
  | none => True
  | some i => encode i = [0xCB, op2] ∧ WellFormed i

/-- A byte by its two nibbles. -/
theorem byte_nibbles (op : Byte) : op = BitVec.ofNat 8 (16 * (op.toNat / 16) + op.toNat % 16) := by
  rw [Nat.div_add_mod]
  simp

theorem primary_row0 (c : Nat) (hc : c < 16) : PrimarySound (BitVec.ofNat 8 (16 * 0 + c)) := by
  interval_cases c <;>
    first
    | with_unfolding_all exact trivial
    | with_unfolding_all exact (⟨rfl, rfl⟩ : _ ∧ _)
    | with_unfolding_all exact (fun _ => ⟨rfl, rfl⟩ : ∀ _, _ ∧ _)

theorem primary_row1 (c : Nat) (hc : c < 16) : PrimarySound (BitVec.ofNat 8 (16 * 1 + c)) := by
  interval_cases c <;>
    first
    | with_unfolding_all exact trivial
    | with_unfolding_all exact (⟨rfl, rfl⟩ : _ ∧ _)
    | with_unfolding_all exact (fun _ => ⟨rfl, rfl⟩ : ∀ _, _ ∧ _)
    | with_unfolding_all exact (fun _ => ⟨rfl, fun h => h⟩ : ∀ _, _ ∧ _)

theorem primary_row2 (c : Nat) (hc : c < 16) : PrimarySound (BitVec.ofNat 8 (16 * 2 + c)) := by
  interval_cases c <;>
    first
    | with_unfolding_all exact trivial
    | with_unfolding_all exact (⟨rfl, rfl⟩ : _ ∧ _)
    | with_unfolding_all exact (fun _ => ⟨rfl, rfl⟩ : ∀ _, _ ∧ _)
    | with_unfolding_all exact (fun _ => ⟨rfl, fun h => h⟩ : ∀ _, _ ∧ _)

theorem primary_row3 (c : Nat) (hc : c < 16) : PrimarySound (BitVec.ofNat 8 (16 * 3 + c)) := by
  interval_cases c <;>
    first
    | with_unfolding_all exact trivial
    | with_unfolding_all exact (⟨rfl, rfl⟩ : _ ∧ _)
    | with_unfolding_all exact (fun _ => ⟨rfl, rfl⟩ : ∀ _, _ ∧ _)

theorem primary_row4 (c : Nat) (hc : c < 16) : PrimarySound (BitVec.ofNat 8 (16 * 4 + c)) := by
  interval_cases c <;>
    with_unfolding_all exact (⟨rfl, rfl⟩ : _ ∧ _)

theorem primary_row5 (c : Nat) (hc : c < 16) : PrimarySound (BitVec.ofNat 8 (16 * 5 + c)) := by
  interval_cases c <;>
    with_unfolding_all exact (⟨rfl, rfl⟩ : _ ∧ _)

theorem primary_row6 (c : Nat) (hc : c < 16) : PrimarySound (BitVec.ofNat 8 (16 * 6 + c)) := by
  interval_cases c <;>
    with_unfolding_all exact (⟨rfl, rfl⟩ : _ ∧ _)

theorem primary_row7 (c : Nat) (hc : c < 16) : PrimarySound (BitVec.ofNat 8 (16 * 7 + c)) := by
  interval_cases c <;>
    first
    | with_unfolding_all exact trivial
    | with_unfolding_all exact (⟨rfl, rfl⟩ : _ ∧ _)

theorem primary_row8 (c : Nat) (hc : c < 16) : PrimarySound (BitVec.ofNat 8 (16 * 8 + c)) := by
  interval_cases c <;>
    first
    | with_unfolding_all exact trivial
    | with_unfolding_all exact (⟨rfl, rfl⟩ : _ ∧ _)

theorem primary_row9 (c : Nat) (hc : c < 16) : PrimarySound (BitVec.ofNat 8 (16 * 9 + c)) := by
  interval_cases c <;>
    first
    | with_unfolding_all exact trivial
    | with_unfolding_all exact (⟨rfl, rfl⟩ : _ ∧ _)

theorem primary_row10 (c : Nat) (hc : c < 16) : PrimarySound (BitVec.ofNat 8 (16 * 10 + c)) := by
  interval_cases c <;>
    first
    | with_unfolding_all exact trivial
    | with_unfolding_all exact (⟨rfl, rfl⟩ : _ ∧ _)

theorem primary_row11 (c : Nat) (hc : c < 16) : PrimarySound (BitVec.ofNat 8 (16 * 11 + c)) := by
  interval_cases c <;>
    first
    | with_unfolding_all exact trivial
    | with_unfolding_all exact (⟨rfl, rfl⟩ : _ ∧ _)

theorem primary_row12 (c : Nat) (hc : c < 16) : PrimarySound (BitVec.ofNat 8 (16 * 12 + c)) := by
  interval_cases c <;>
    first
    | with_unfolding_all exact trivial
    | with_unfolding_all exact (⟨rfl, rfl⟩ : _ ∧ _)
    | with_unfolding_all exact (fun _ => ⟨rfl, rfl⟩ : ∀ _, _ ∧ _)

theorem primary_row13 (c : Nat) (hc : c < 16) : PrimarySound (BitVec.ofNat 8 (16 * 13 + c)) := by
  interval_cases c <;>
    first
    | with_unfolding_all exact trivial
    | with_unfolding_all exact (⟨rfl, rfl⟩ : _ ∧ _)
    | with_unfolding_all exact (fun _ => ⟨rfl, rfl⟩ : ∀ _, _ ∧ _)

theorem primary_row14 (c : Nat) (hc : c < 16) : PrimarySound (BitVec.ofNat 8 (16 * 14 + c)) := by
  interval_cases c <;>
    first
    | with_unfolding_all exact trivial
    | with_unfolding_all exact (⟨rfl, rfl⟩ : _ ∧ _)
    | with_unfolding_all exact (fun _ => ⟨rfl, rfl⟩ : ∀ _, _ ∧ _)

theorem primary_row15 (c : Nat) (hc : c < 16) : PrimarySound (BitVec.ofNat 8 (16 * 15 + c)) := by
  interval_cases c <;>
    first
    | with_unfolding_all exact trivial
    | with_unfolding_all exact (⟨rfl, rfl⟩ : _ ∧ _)
    | with_unfolding_all exact (fun _ => ⟨rfl, rfl⟩ : ∀ _, _ ∧ _)

/-- Every cell of the primary map is sound. -/
theorem primary_sound (op : Byte) : PrimarySound op := by
  have hr : op.toNat / 16 < 16 := by have := op.isLt; omega
  have hc : op.toNat % 16 < 16 := Nat.mod_lt _ (by decide)
  rw [byte_nibbles op]
  generalize op.toNat / 16 = r at *
  generalize op.toNat % 16 = c at *
  interval_cases r
  · exact primary_row0 c hc
  · exact primary_row1 c hc
  · exact primary_row2 c hc
  · exact primary_row3 c hc
  · exact primary_row4 c hc
  · exact primary_row5 c hc
  · exact primary_row6 c hc
  · exact primary_row7 c hc
  · exact primary_row8 c hc
  · exact primary_row9 c hc
  · exact primary_row10 c hc
  · exact primary_row11 c hc
  · exact primary_row12 c hc
  · exact primary_row13 c hc
  · exact primary_row14 c hc
  · exact primary_row15 c hc

theorem cb_row0 (c : Nat) (hc : c < 16) : CbSound (BitVec.ofNat 8 (16 * 0 + c)) := by
  interval_cases c <;>
    with_unfolding_all exact trivial

theorem cb_row1 (c : Nat) (hc : c < 16) : CbSound (BitVec.ofNat 8 (16 * 1 + c)) := by
  interval_cases c <;>
    first
    | with_unfolding_all exact trivial
    | with_unfolding_all exact (⟨rfl, rfl⟩ : _ ∧ _)

theorem cb_row2 (c : Nat) (hc : c < 16) : CbSound (BitVec.ofNat 8 (16 * 2 + c)) := by
  interval_cases c <;>
    with_unfolding_all exact trivial

theorem cb_row3 (c : Nat) (hc : c < 16) : CbSound (BitVec.ofNat 8 (16 * 3 + c)) := by
  interval_cases c <;>
    with_unfolding_all exact trivial

theorem cb_row4 (c : Nat) (hc : c < 16) : CbSound (BitVec.ofNat 8 (16 * 4 + c)) := by
  interval_cases c <;>
    first
    | with_unfolding_all exact trivial
    | with_unfolding_all exact (⟨rfl, rfl⟩ : _ ∧ _)

theorem cb_row5 (c : Nat) (hc : c < 16) : CbSound (BitVec.ofNat 8 (16 * 5 + c)) := by
  interval_cases c <;>
    first
    | with_unfolding_all exact trivial
    | with_unfolding_all exact (⟨rfl, rfl⟩ : _ ∧ _)

theorem cb_row6 (c : Nat) (hc : c < 16) : CbSound (BitVec.ofNat 8 (16 * 6 + c)) := by
  interval_cases c <;>
    first
    | with_unfolding_all exact trivial
    | with_unfolding_all exact (⟨rfl, rfl⟩ : _ ∧ _)

theorem cb_row7 (c : Nat) (hc : c < 16) : CbSound (BitVec.ofNat 8 (16 * 7 + c)) := by
  interval_cases c <;>
    first
    | with_unfolding_all exact trivial
    | with_unfolding_all exact (⟨rfl, rfl⟩ : _ ∧ _)

theorem cb_row8 (c : Nat) (hc : c < 16) : CbSound (BitVec.ofNat 8 (16 * 8 + c)) := by
  interval_cases c <;>
    with_unfolding_all exact trivial

theorem cb_row9 (c : Nat) (hc : c < 16) : CbSound (BitVec.ofNat 8 (16 * 9 + c)) := by
  interval_cases c <;>
    with_unfolding_all exact trivial

theorem cb_row10 (c : Nat) (hc : c < 16) : CbSound (BitVec.ofNat 8 (16 * 10 + c)) := by
  interval_cases c <;>
    with_unfolding_all exact trivial

theorem cb_row11 (c : Nat) (hc : c < 16) : CbSound (BitVec.ofNat 8 (16 * 11 + c)) := by
  interval_cases c <;>
    with_unfolding_all exact trivial

theorem cb_row12 (c : Nat) (hc : c < 16) : CbSound (BitVec.ofNat 8 (16 * 12 + c)) := by
  interval_cases c <;>
    with_unfolding_all exact trivial

theorem cb_row13 (c : Nat) (hc : c < 16) : CbSound (BitVec.ofNat 8 (16 * 13 + c)) := by
  interval_cases c <;>
    with_unfolding_all exact trivial

theorem cb_row14 (c : Nat) (hc : c < 16) : CbSound (BitVec.ofNat 8 (16 * 14 + c)) := by
  interval_cases c <;>
    with_unfolding_all exact trivial

theorem cb_row15 (c : Nat) (hc : c < 16) : CbSound (BitVec.ofNat 8 (16 * 15 + c)) := by
  interval_cases c <;>
    with_unfolding_all exact trivial

/-- Every cell of the CB map is sound. -/
theorem cb_sound (op : Byte) : CbSound op := by
  have hr : op.toNat / 16 < 16 := by have := op.isLt; omega
  have hc : op.toNat % 16 < 16 := Nat.mod_lt _ (by decide)
  rw [byte_nibbles op]
  generalize op.toNat / 16 = r at *
  generalize op.toNat % 16 = c at *
  interval_cases r
  · exact cb_row0 c hc
  · exact cb_row1 c hc
  · exact cb_row2 c hc
  · exact cb_row3 c hc
  · exact cb_row4 c hc
  · exact cb_row5 c hc
  · exact cb_row6 c hc
  · exact cb_row7 c hc
  · exact cb_row8 c hc
  · exact cb_row9 c hc
  · exact cb_row10 c hc
  · exact cb_row11 c hc
  · exact cb_row12 c hc
  · exact cb_row13 c hc
  · exact cb_row14 c hc
  · exact cb_row15 c hc

/-- An instruction's length is its encoding's. -/
theorem encode_length (i : Instr) : (encode i).length = i.length := by
  cases i <;> rfl

/-- Every instruction has one to three bytes (30_encoding.md R81). -/
theorem length_bounds (i : Instr) : 0 < i.length ∧ i.length ≤ 3 := by
  unfold Instr.length
  cases i.form <;> simp [Form.length]

end Sys2Proof
end

