-- ==== Sys2Proof/Laws/State.lean ====
section
/-! SUPPORT. One lemma per field for each update of State the model makes, so that no later proof unfolds a record update. -/

namespace Sys2Proof.Machine

@[simp] theorem State.setReg_regs (s : State) (r : Reg) (v : Byte) : (s.setReg r v).regs = s.regs.set r v := rfl
@[simp] theorem State.setReg_flags (s : State) (r : Reg) (v : Byte) : (s.setReg r v).flags = s.flags := rfl
@[simp] theorem State.setReg_sp (s : State) (r : Reg) (v : Byte) : (s.setReg r v).sp = s.sp := rfl
@[simp] theorem State.setReg_pc (s : State) (r : Reg) (v : Byte) : (s.setReg r v).pc = s.pc := rfl
@[simp] theorem State.setReg_mem (s : State) (r : Reg) (v : Byte) : (s.setReg r v).mem = s.mem := rfl
@[simp] theorem State.setReg_lastScy (s : State) (r : Reg) (v : Byte) : (s.setReg r v).lastScy = s.lastScy := rfl
@[simp] theorem State.setReg_status (s : State) (r : Reg) (v : Byte) : (s.setReg r v).status = s.status := rfl
@[simp] theorem State.setReg_cfg (s : State) (r : Reg) (v : Byte) : (s.setReg r v).cfg = s.cfg := rfl
@[simp] theorem State.setReg_draws (s : State) (r : Reg) (v : Byte) : (s.setReg r v).draws = s.draws := rfl

@[simp] theorem State.setPair_regs (s : State) (p : RegPair) (v : Word) : (s.setPair p v).regs = s.regs.setPair p v := rfl
@[simp] theorem State.setPair_flags (s : State) (p : RegPair) (v : Word) : (s.setPair p v).flags = s.flags := rfl
@[simp] theorem State.setPair_sp (s : State) (p : RegPair) (v : Word) : (s.setPair p v).sp = s.sp := rfl
@[simp] theorem State.setPair_pc (s : State) (p : RegPair) (v : Word) : (s.setPair p v).pc = s.pc := rfl
@[simp] theorem State.setPair_mem (s : State) (p : RegPair) (v : Word) : (s.setPair p v).mem = s.mem := rfl
@[simp] theorem State.setPair_lastScy (s : State) (p : RegPair) (v : Word) : (s.setPair p v).lastScy = s.lastScy := rfl
@[simp] theorem State.setPair_status (s : State) (p : RegPair) (v : Word) : (s.setPair p v).status = s.status := rfl
@[simp] theorem State.setPair_cfg (s : State) (p : RegPair) (v : Word) : (s.setPair p v).cfg = s.cfg := rfl
@[simp] theorem State.setPair_draws (s : State) (p : RegPair) (v : Word) : (s.setPair p v).draws = s.draws := rfl

@[simp] theorem State.takeFault_regs (s : State) (x : Raised) : (s.takeFault x).regs = s.regs := rfl
@[simp] theorem State.takeFault_flags (s : State) (x : Raised) : (s.takeFault x).flags = s.flags := rfl
@[simp] theorem State.takeFault_sp (s : State) (x : Raised) : (s.takeFault x).sp = s.sp := rfl
@[simp] theorem State.takeFault_pc (s : State) (x : Raised) : (s.takeFault x).pc = s.pc := rfl
@[simp] theorem State.takeFault_mem (s : State) (x : Raised) : (s.takeFault x).mem = s.mem := rfl
@[simp] theorem State.takeFault_lastScy (s : State) (x : Raised) : (s.takeFault x).lastScy = s.lastScy := rfl
@[simp] theorem State.takeFault_status (s : State) (x : Raised) : (s.takeFault x).status = .faulted (s.faultRecord x) := rfl
@[simp] theorem State.takeFault_cfg (s : State) (x : Raised) : (s.takeFault x).cfg = s.cfg := rfl
@[simp] theorem State.takeFault_draws (s : State) (x : Raised) : (s.takeFault x).draws = s.draws := rfl

@[simp] theorem State.memWrite_regs (s : State) (a : Word) (v : Byte) : (s.memWrite a v).regs = s.regs := by unfold State.memWrite; split <;> rfl
@[simp] theorem State.memWrite_flags (s : State) (a : Word) (v : Byte) : (s.memWrite a v).flags = s.flags := by unfold State.memWrite; split <;> rfl
@[simp] theorem State.memWrite_sp (s : State) (a : Word) (v : Byte) : (s.memWrite a v).sp = s.sp := by unfold State.memWrite; split <;> rfl
@[simp] theorem State.memWrite_pc (s : State) (a : Word) (v : Byte) : (s.memWrite a v).pc = s.pc := by unfold State.memWrite; split <;> rfl
@[simp] theorem State.memWrite_mem (s : State) (a : Word) (v : Byte) : (s.memWrite a v).mem = if a = lyAddr then s.mem else s.mem.setByte a.toNat v := by unfold State.memWrite; split <;> rfl
@[simp] theorem State.memWrite_lastScy (s : State) (a : Word) (v : Byte) : (s.memWrite a v).lastScy = s.lastScy := by unfold State.memWrite; split <;> rfl
@[simp] theorem State.memWrite_status (s : State) (a : Word) (v : Byte) : (s.memWrite a v).status = s.status := by unfold State.memWrite; split <;> rfl
@[simp] theorem State.memWrite_cfg (s : State) (a : Word) (v : Byte) : (s.memWrite a v).cfg = s.cfg := by unfold State.memWrite; split <;> rfl
@[simp] theorem State.memWrite_draws (s : State) (a : Word) (v : Byte) : (s.memWrite a v).draws = s.draws := by unfold State.memWrite; split <;> rfl

@[simp] theorem State.setLoadPair_flags (s : State) (p : LoadPair) (v : Word) : (s.setLoadPair p v).flags = s.flags := by cases p <;> rfl
@[simp] theorem State.setLoadPair_pc (s : State) (p : LoadPair) (v : Word) : (s.setLoadPair p v).pc = s.pc := by cases p <;> rfl
@[simp] theorem State.setLoadPair_mem (s : State) (p : LoadPair) (v : Word) : (s.setLoadPair p v).mem = s.mem := by cases p <;> rfl
@[simp] theorem State.setLoadPair_lastScy (s : State) (p : LoadPair) (v : Word) : (s.setLoadPair p v).lastScy = s.lastScy := by cases p <;> rfl
@[simp] theorem State.setLoadPair_status (s : State) (p : LoadPair) (v : Word) : (s.setLoadPair p v).status = s.status := by cases p <;> rfl
@[simp] theorem State.setLoadPair_cfg (s : State) (p : LoadPair) (v : Word) : (s.setLoadPair p v).cfg = s.cfg := by cases p <;> rfl
@[simp] theorem State.setLoadPair_draws (s : State) (p : LoadPair) (v : Word) : (s.setLoadPair p v).draws = s.draws := by cases p <;> rfl

@[simp] theorem State.writeFlags_regs (s : State) (f : Flags) : (s.writeFlags f).regs = s.regs := by unfold State.writeFlags; split <;> rfl
@[simp] theorem State.writeFlags_sp (s : State) (f : Flags) : (s.writeFlags f).sp = s.sp := by unfold State.writeFlags; split <;> rfl
@[simp] theorem State.writeFlags_pc (s : State) (f : Flags) : (s.writeFlags f).pc = s.pc := by unfold State.writeFlags; split <;> rfl
@[simp] theorem State.writeFlags_mem (s : State) (f : Flags) : (s.writeFlags f).mem = s.mem := by unfold State.writeFlags; split <;> rfl
@[simp] theorem State.writeFlags_lastScy (s : State) (f : Flags) : (s.writeFlags f).lastScy = s.lastScy := by unfold State.writeFlags; split <;> rfl
@[simp] theorem State.writeFlags_status (s : State) (f : Flags) : (s.writeFlags f).status = s.status := by unfold State.writeFlags; split <;> rfl
@[simp] theorem State.writeFlags_cfg (s : State) (f : Flags) : (s.writeFlags f).cfg = s.cfg := by unfold State.writeFlags; split <;> rfl

@[simp] theorem State.withFetchWord_regs (s : State) (nbits w : Nat) : (s.withFetchWord nbits w).regs = s.regs := rfl
@[simp] theorem State.withFetchWord_flags (s : State) (nbits w : Nat) : (s.withFetchWord nbits w).flags = s.flags := rfl
@[simp] theorem State.withFetchWord_sp (s : State) (nbits w : Nat) : (s.withFetchWord nbits w).sp = s.sp := rfl
@[simp] theorem State.withFetchWord_pc (s : State) (nbits w : Nat) : (s.withFetchWord nbits w).pc = s.pc := rfl
@[simp] theorem State.withFetchWord_mem (s : State) (nbits w : Nat) : (s.withFetchWord nbits w).mem = s.mem.placeAt s.pc (Sys2Proof.tableBytes nbits w) := rfl
@[simp] theorem State.withFetchWord_lastScy (s : State) (nbits w : Nat) : (s.withFetchWord nbits w).lastScy = s.lastScy := rfl
@[simp] theorem State.withFetchWord_status (s : State) (nbits w : Nat) : (s.withFetchWord nbits w).status = s.status := rfl
@[simp] theorem State.withFetchWord_cfg (s : State) (nbits w : Nat) : (s.withFetchWord nbits w).cfg = s.cfg := rfl
@[simp] theorem State.withFetchWord_draws (s : State) (nbits w : Nat) : (s.withFetchWord nbits w).draws = s.draws := rfl

/-- Flags written in hardware mode are the flags computed (41_alu.md R140). -/
@[simp] theorem State.writeFlags_hardware (s : State) (f : Flags) (h : s.cfg.flagMode = .hardware) :
    s.writeFlags f = { s with flags := f } := by
  simp [State.writeFlags, h]

/-- Flags written in reference mode: Z and N as computed, H and C drawn (41_alu.md R146). -/
@[simp] theorem State.writeFlags_reference (s : State) (f : Flags) (h : s.cfg.flagMode = .reference) :
    s.writeFlags f =
      { s with
        flags := { z := f.z, n := f.n, h := Config.draw s.draws, c := Config.draw (s.draws + 1) }
        draws := s.draws + 2 } := by
  simp [State.writeFlags, h]

/-- A register read back after a write. -/
theorem Regs.get_set (g : Regs) (r q : Reg) (v : Byte) : (g.set r v).get q = if q = r then v else g.get q := by
  cases r <;> cases q <;> rfl

/-- A register just written reads as the byte written. -/
@[simp] theorem Regs.get_set_self (g : Regs) (r : Reg) (v : Byte) : (g.set r v).get r = v := by
  cases r <;> rfl

/-- A pair read back after a write of a pair: the same pair gives the word written. -/
@[simp] theorem Regs.pair_setPair_self (g : Regs) (p : RegPair) (v : Word) : (g.setPair p v).pair p = v := by
  have h : wordOf (hiByte v) (loByte v) = v := by
    apply BitVec.eq_of_toNat_eq
    simp [wordOf, hiByte, loByte]
    omega
  cases p <;> simpa [Regs.pair, Regs.setPair, Regs.get, Regs.set, pairHi, pairLo] using h

/-- A register outside a pair is left alone by a write of the pair. -/
theorem Regs.get_setPair (g : Regs) (p : RegPair) (v : Word) (q : Reg) (h1 : q ≠ pairHi p) (h2 : q ≠ pairLo p) :
    (g.setPair p v).get q = g.get q := by
  cases p <;> cases q <;> simp_all [Regs.setPair, Regs.get, Regs.set, pairHi, pairLo]

/-- The tick writes last_scy and nothing else (50_graphics.md R200). -/
theorem tick_state (s : State) :
    (tick s).1 = { s with lastScy := some (gfxRead s.mem scyAddr.toNat) } := by
  by_cases h : s.lastScy = some (gfxRead s.mem scyAddr.toNat)
  · cases s
    simp_all [tick]
  · simp [tick, h]

/-- The tick emits a frame exactly when SCY differs from last_scy (50_graphics.md R211). -/
theorem tick_frame (s : State) :
    (tick s).2 =
      if s.lastScy = some (gfxRead s.mem scyAddr.toNat) then none
      else some (render s.mem (gfxRead s.mem scyAddr.toNat)) := by
  by_cases h : s.lastScy = some (gfxRead s.mem scyAddr.toNat) <;> simp [tick, h]

end Sys2Proof.Machine
end

