-- ==== Sys2Proof/Laws/Memory.lean ====
section
/-! SUPPORT. Reading after writing, and the canonical form: every memory operation keeps it. -/

namespace Sys2Proof.Machine

/-! ## Reading after writing -/

theorem Memory.byteAt_erase (m : Memory) (a b : Nat) :
    (m.erase a).byteAt b = if b = a then unlistedByte else m.byteAt b := by
  induction m with
  | nil => simp [Memory.erase, Memory.byteAt]
  | cons c rest ih =>
    obtain ⟨k, v⟩ := c
    by_cases hk : k = a
    · subst hk
      simp only [Memory.erase, if_true, ih, Memory.byteAt]
      by_cases hb : b = k
      · simp [hb]
      · simp [hb, Ne.symm hb]
    · simp only [Memory.erase, hk, if_false, Memory.byteAt, ih]
      by_cases hb : b = a
      · simp [hb, hk]
      · simp [hb]

theorem Memory.byteAt_insert (m : Memory) (a b : Nat) (v : Byte)
    (hn : ∀ c ∈ m, c.1 ≠ a) : (m.insert a v).byteAt b = if b = a then v else m.byteAt b := by
  induction m with
  | nil =>
    by_cases hb : b = a
    · simp [Memory.insert, Memory.byteAt, hb]
    · simp [Memory.insert, Memory.byteAt, hb, Ne.symm hb]
  | cons c rest ih =>
    obtain ⟨k, w⟩ := c
    have hk : k ≠ a := hn (k, w) (by simp)
    have ih' := ih (fun c hc => hn c (by simp [hc]))
    by_cases hlt : a < k
    · by_cases hb : b = a
      · simp [Memory.insert, hlt, Memory.byteAt, hb]
      · simp [Memory.insert, hlt, Memory.byteAt, hb, Ne.symm hb]
    · by_cases hb : b = a
      · simp [Memory.insert, hlt, Memory.byteAt, hb, hk] at ih' ⊢
        exact ih'
      · simp [Memory.insert, hlt, Memory.byteAt, hb] at ih' ⊢
        rw [ih']

theorem Memory.erase_no_entry (m : Memory) (a : Nat) : ∀ c ∈ m.erase a, c.1 ≠ a := by
  induction m with
  | nil => simp [Memory.erase]
  | cons c rest ih =>
    obtain ⟨k, v⟩ := c
    by_cases hk : k = a
    · simpa [Memory.erase, hk] using ih
    · intro c hc
      simp [Memory.erase, hk] at hc
      rcases hc with rfl | hc
      · exact hk
      · exact ih c hc

/-- A cell reads as the byte last stored to it, and a store leaves every other cell alone, in any list. -/
theorem Memory.byteAt_setByte (m : Memory) (a b : Nat) (v : Byte) :
    (m.setByte a v).byteAt b = if b = a then v else m.byteAt b := by
  unfold Memory.setByte
  split
  · rename_i hv
    rw [Memory.byteAt_erase, hv]
  · rw [Memory.byteAt_insert _ _ _ _ (m.erase_no_entry a), Memory.byteAt_erase]
    split <;> rfl

/-! ## The canonical form -/

theorem Memory.wfFrom_mono (m : Memory) {lo lo' : Nat} (h : lo' ≤ lo) (hw : m.wfFrom lo = true) :
    m.wfFrom lo' = true := by
  cases m with
  | nil => rfl
  | cons c rest =>
    obtain ⟨k, v⟩ := c
    simp [Memory.wfFrom] at hw ⊢
    exact ⟨⟨⟨by omega, hw.1.1.2⟩, hw.1.2⟩, hw.2⟩

theorem Memory.erase_wfFrom (m : Memory) (a : Nat) : ∀ lo, m.wfFrom lo = true → (m.erase a).wfFrom lo = true := by
  induction m with
  | nil => intro lo _; rfl
  | cons c rest ih =>
    obtain ⟨k, v⟩ := c
    intro lo h
    simp [Memory.wfFrom] at h
    by_cases hk : k = a
    · simp only [Memory.erase, hk, if_true]
      exact Memory.wfFrom_mono _ (by omega) (ih (k + 1) h.2)
    · simp [Memory.erase, hk, Memory.wfFrom, h, ih (k + 1) h.2]

theorem Memory.insert_wfFrom (m : Memory) (a : Nat) (v : Byte) (ha : a < 0x10000) (hv : v ≠ unlistedByte) :
    ∀ lo, lo ≤ a → (∀ c ∈ m, c.1 ≠ a) → m.wfFrom lo = true → (m.insert a v).wfFrom lo = true := by
  induction m with
  | nil => intro lo h _ _; simp [Memory.insert, Memory.wfFrom, h, ha, hv]
  | cons c rest ih =>
    obtain ⟨k, w⟩ := c
    intro lo hlo hn h
    simp [Memory.wfFrom] at h
    have hk : k ≠ a := hn (k, w) (by simp)
    by_cases hlt : a < k
    · simp [Memory.insert, hlt, Memory.wfFrom, hlo, ha, hv, h] <;> omega
    · have : k + 1 ≤ a := by omega
      simp [Memory.insert, hlt, Memory.wfFrom, h, ih (k + 1) this (fun c hc => hn c (by simp [hc])) h.2]

/-- A store to an address of the space keeps the canonical form. -/
theorem Memory.setByte_wf (m : Memory) (a : Nat) (v : Byte) (ha : a < 0x10000) (h : m.wf = true) :
    (m.setByte a v).wf = true := by
  unfold Memory.setByte Memory.wf
  split
  · exact m.erase_wfFrom a 0 h
  · exact Memory.insert_wfFrom _ a v ha (by assumption) 0 (by omega) (m.erase_no_entry a) (m.erase_wfFrom a 0 h)

/-- MemWrite keeps the canonical form. -/
theorem State.memWrite_wf (s : State) (a : Word) (v : Byte) (h : s.mem.wf = true) : (s.memWrite a v).mem.wf = true := by
  unfold State.memWrite
  split
  · exact h
  · exact Memory.setByte_wf _ _ _ a.isLt h

/-- Bytes placed inside the address space keep the canonical form. -/
theorem Memory.place_wf (bytes : List Byte) :
    ∀ (m : Memory) (start : Nat), start + bytes.length ≤ 0x10000 → m.wf = true → (m.place start bytes).wf = true := by
  induction bytes with
  | nil => intro m start _ h; exact h
  | cons v rest ih =>
    intro m start hl h
    simp at hl
    exact ih _ _ (by omega) (Memory.setByte_wf m start v (by omega) h)

/-- Bytes placed at a word address, wrapping, keep the canonical form. -/
theorem Memory.placeAt_wf (bytes : List Byte) :
    ∀ (m : Memory) (start : Word), m.wf = true → (m.placeAt start bytes).wf = true := by
  induction bytes with
  | nil => intro m start h; exact h
  | cons v rest ih => intro m start h; exact ih _ _ (Memory.setByte_wf m _ v start.isLt h)

/-- Reset memory has the canonical form. -/
theorem State.reset_mem_wf : State.reset.mem.wf = true := by decide

/-! ## The access primitives -/

/-- Only the parameters and the memory decide what MemRead gives. -/
theorem State.memRead_congr {s t : State} (hc : s.cfg = t.cfg) (hm : s.mem = t.mem) (a : Word) :
    s.memRead a = t.memRead a := by
  simp [State.memRead, hc, hm]

end Sys2Proof.Machine
end

