-- ==== Sys2Proof/Laws/Ops.lean ====
section
/-! SUPPORT. One lemma per shared operation of Machine/Ops.lean, saying once what it can answer. -/

namespace Sys2Proof.Machine

/-! ## Checked addresses -/

/-- `inSpace` is the spec's range check. -/
theorem inSpace_iff (v : Int) : inSpace v = true ↔ 0 ≤ v ∧ v ≤ 0xFFFF := by
  cases v with
  | ofNat n => simp [inSpace] <;> omega
  | negSucc n => simp [inSpace]

/-- An address that fits its mode is the integer reduced mod 2^16. -/
theorem edgeAddr_ok {mode : EdgeMode} {v : Int} (h : mode = .wrap ∨ (0 ≤ v ∧ v ≤ 0xFFFF)) :
    edgeAddr mode v = .ok (BitVec.ofInt 16 v) := by
  unfold edgeAddr
  split
  · rfl
  · rename_i hv
    rcases h with rfl | h
    · rfl
    · exact absurd ((inSpace_iff v).2 h) hv

/-- An integer outside the address space is refused in fault mode. -/
theorem edgeAddr_error {v : Int} (h : ¬ (0 ≤ v ∧ v ≤ 0xFFFF)) : edgeAddr .fault v = .error v := by
  have hv : inSpace v = false := by
    cases hv : inSpace v
    · rfl
    · exact absurd ((inSpace_iff v).1 hv) h
  simp [edgeAddr, hv]

/-- `addr` refuses only in fault mode, only out of range, and names the integer it was given. -/
theorem edgeAddr_error_iff {mode : EdgeMode} {v x : Int} :
    edgeAddr mode v = .error x ↔ mode = .fault ∧ x = v ∧ ¬ (0 ≤ v ∧ v ≤ 0xFFFF) := by
  rw [← inSpace_iff]
  unfold edgeAddr
  split
  · rename_i h
    simp [h]
  · rename_i h
    cases mode
    · simp
    · simp [h, eq_comm]

/-- A natural number reduced to 16 bits through the integers. -/
theorem ofInt_natCast (n : Nat) : BitVec.ofInt 16 (n : Int) = BitVec.ofNat 16 n := by
  simp [BitVec.ofInt_natCast]

/-- A word plus an integer offset. -/
theorem ofInt_toNat_add (w : Word) (k : Int) :
    BitVec.ofInt 16 ((w.toNat : Int) + k) = w + BitVec.ofInt 16 k := by
  rw [BitVec.ofInt_add, BitVec.ofInt_natCast]
  simp

/-- The checked address of a word plus a natural offset. -/
theorem State.addr_add {s : State} {w : Word} {k : Nat} (h : s.cfg.edgeMode = .wrap ∨ w.toNat + k ≤ 0xFFFF) :
    s.addr (w.toNat + k) = .ok (w + BitVec.ofNat 16 k) := by
  unfold State.addr
  rw [edgeAddr_ok (h.imp id (fun h => by omega)), ofInt_toNat_add, ofInt_natCast]

/-- The checked address of a word less a natural offset. -/
theorem State.addr_sub {s : State} {w : Word} {k : Nat} (h : s.cfg.edgeMode = .wrap ∨ k ≤ w.toNat) :
    s.addr (w.toNat - k) = .ok (w - BitVec.ofNat 16 k) := by
  unfold State.addr
  rw [edgeAddr_ok (h.imp id (fun h => by have := w.isLt; omega)), Int.sub_eq_add_neg, ofInt_toNat_add]
  congr 1
  rw [BitVec.ofInt_neg, ofInt_natCast, BitVec.sub_eq_add_neg]

/-! ## The stack -/

/-- A push whose addresses fit stores the high byte at SP and the low byte at SP - 1 and takes 2 from SP. -/
theorem push16_ok {v : Word} {s : State} (h : PushFits s) :
    push16 v s =
      .ok { (s.memWrite s.sp (hiByte v)).memWrite (s.sp - 1) (loByte v) with sp := s.sp - 2 } := by
  have h1 := State.addr_sub (s := s) (w := s.sp) (k := 1) (h.imp id (by omega))
  have h2 := State.addr_sub (s := s) (w := s.sp) (k := 2) (h.imp id (by omega))
  have h1' : s.addr (↑s.sp.toNat - 1) = .ok (s.sp - 1) := h1
  have h2' : s.addr (↑s.sp.toNat - 2) = .ok (s.sp - 2) := h2
  simp only [push16, h1', h2']

/-- A pop whose addresses fit reads the low byte at SP + 1 and the high byte at SP + 2 and adds 2 to SP. -/
theorem pop16_ok {s : State} (h : PopFits s) :
    pop16 s =
      .ok (wordOf (s.memRead (s.sp + 2)) (s.memRead (s.sp + 1)), { s with sp := s.sp + 2 }) := by
  have h1 := State.addr_add (s := s) (w := s.sp) (k := 1) (h.imp id (by omega))
  have h2 := State.addr_add (s := s) (w := s.sp) (k := 2) (h.imp id (by omega))
  have h1' : s.addr (↑s.sp.toNat + 1) = .ok (s.sp + 1) := h1
  have h2' : s.addr (↑s.sp.toNat + 2) = .ok (s.sp + 2) := h2
  simp only [pop16, h1', h2']

/-- Everything a push can do: it changes memory and SP alone, or names an integer in fault mode. -/
theorem push16_cases (v : Word) (s : State) :
    (PushFits s ∧ push16 v s =
      .ok { (s.memWrite s.sp (hiByte v)).memWrite (s.sp - 1) (loByte v) with sp := s.sp - 2 }) ∨
    (s.cfg.edgeMode = .fault ∧ s.sp.toNat < 2 ∧ push16 v s = .error (-1)) := by
  by_cases h : PushFits s
  · exact .inl ⟨h, push16_ok h⟩
  · have hm : s.cfg.edgeMode = .fault := by cases hm : s.cfg.edgeMode <;> simp_all [PushFits]
    have hs : s.sp.toNat < 2 := by simp only [PushFits, not_or] at h; omega
    refine .inr ⟨hm, hs, ?_⟩
    have : s.sp.toNat = 0 ∨ s.sp.toNat = 1 := by omega
    have e0 : edgeAddr .fault 0 = .ok 0 := rfl
    have e1 : edgeAddr .fault (-1) = .error (-1) := rfl
    rcases this with h0 | h0 <;> simp [push16, State.addr, h0, hm, e0, e1]

/-- Everything a pop can do: it changes SP alone, or names 0x10000 in fault mode. -/
theorem pop16_cases (s : State) :
    (PopFits s ∧ pop16 s =
      .ok (wordOf (s.memRead (s.sp + 2)) (s.memRead (s.sp + 1)), { s with sp := s.sp + 2 })) ∨
    (s.cfg.edgeMode = .fault ∧ 0xFFFE ≤ s.sp.toNat ∧ pop16 s = .error 0x10000) := by
  by_cases h : PopFits s
  · exact .inl ⟨h, pop16_ok h⟩
  · have hm : s.cfg.edgeMode = .fault := by cases hm : s.cfg.edgeMode <;> simp_all [PopFits]
    have hs : 0xFFFE ≤ s.sp.toNat := by simp only [PopFits, not_or] at h; omega
    refine .inr ⟨hm, hs, ?_⟩
    have := s.sp.isLt
    have : s.sp.toNat = 0xFFFE ∨ s.sp.toNat = 0xFFFF := by omega
    have e0 : edgeAddr .fault 0xFFFF = .ok 0xFFFF := rfl
    have e1 : edgeAddr .fault 0x10000 = .error 0x10000 := rfl
    rcases this with h0 | h0 <;> simp [pop16, State.addr, h0, hm, e0, e1]

/-! ## One instruction -/

/-- An instruction whose PC_next fits runs its effect at PC_next. -/
theorem complete_fits {len : Nat} {effect : Effect} {s : State} (h : PcFits s len) :
    s.complete len effect =
      match effect { s with pc := s.pc + BitVec.ofNat 16 len } with
      | .error v => .next (s.takeFault (.edgeFault v))
      | .ok t => .next t := by
  simp only [State.complete, State.addr_add h] <;> rfl

/-- Everything an instruction can do: its effect at PC_next, or the EdgeFault of PC_next or of the effect. -/
theorem complete_cases (len : Nat) (effect : Effect) (s : State) :
    (PcFits s len ∧ ∃ t, effect { s with pc := s.pc + BitVec.ofNat 16 len } = .ok t ∧ s.complete len effect = .next t) ∨
    (PcFits s len ∧ ∃ v, effect { s with pc := s.pc + BitVec.ofNat 16 len } = .error v ∧
      s.complete len effect = .next (s.takeFault (.edgeFault v))) ∨
    (s.cfg.edgeMode = .fault ∧ 0xFFFF < s.pc.toNat + len ∧
      s.complete len effect = .next (s.takeFault (.edgeFault (s.pc.toNat + len)))) := by
  by_cases h : PcFits s len
  · cases he : effect { s with pc := s.pc + BitVec.ofNat 16 len } with
    | ok t => exact .inl ⟨h, t, rfl, by rw [complete_fits h, he]⟩
    | error v => exact .inr (.inl ⟨h, v, rfl, by rw [complete_fits h, he]⟩)
  · have hm : s.cfg.edgeMode = .fault := by cases hm : s.cfg.edgeMode <;> simp_all [PcFits]
    have hl : 0xFFFF < s.pc.toNat + len := by simp only [PcFits, not_or] at h; omega
    refine .inr (.inr ⟨hm, hl, ?_⟩)
    unfold State.complete State.addr
    rw [hm, edgeAddr_error (by omega)]

/-- An instruction always answers a next state. -/
theorem complete_next (len : Nat) (effect : Effect) (s : State) : ∃ t, s.complete len effect = .next t := by
  rcases complete_cases len effect s with ⟨_, t, _, h⟩ | ⟨_, v, _, h⟩ | ⟨_, _, h⟩
  · exact ⟨t, h⟩
  · exact ⟨_, h⟩
  · exact ⟨_, h⟩

end Sys2Proof.Machine
end

