-- ==== Sys2Proof/Laws/Dispatch.lean ====
section
/-! SUPPORT. The 211 arms of exec by form: what an instruction does is what its form's shared operation does, so a proof about
every instruction splits into 41 forms. -/

namespace Sys2Proof.Machine

/-- The meaning of each form. -/
def formMeaning (f : Form) (s : State) : Result :=
  match f with
  | .ldReg_n8 r n => loadImm8 r n s
  | .ldPair_n16 p n => loadImm16 p n s
  | .ldReg_reg dst src => moveReg dst src s
  | .ldReg_atHL r => loadFrom 1 r (atPair .hl) s
  | .ldAtHL_reg r => storeTo 1 (atPair .hl) r s
  | .ldAtBC_A => execLdAtBC_A s
  | .ldAtDE_A => execLdAtDE_A s
  | .ldA_atBC => execLdA_atBC s
  | .ldA_atDE => execLdA_atDE s
  | .ldAtHLinc_A => execLdAtHLinc_A s
  | .ldAtHLdec_A => execLdAtHLdec_A s
  | .ldhAtN8_A n => execLdhAtN8_A n s
  | .ldhA_atN8 n => execLdhA_atN8 n s
  | .ldAtC_A => execLdAtC_A s
  | .ldA_atC => execLdA_atC s
  | .ldAtA16_A a => execLdAtA16_A a s
  | .ldA_atA16 a => execLdA_atA16 a s
  | .addA_reg r => addA 1 (.reg r) s
  | .addA_atHL => execAddA_atHL s
  | .addA_n8 n => execAddA_n8 n s
  | .subReg r => subA 1 (.reg r) s
  | .subAtHL => execSubAtHL s
  | .subN8 n => execSubN8 n s
  | .cpReg r => cpA 1 (.reg r) s
  | .cpAtHL => execCpAtHL s
  | .cpN8 n => execCpN8 n s
  | .xorA => execXorA s
  | .incReg r => incReg r s
  | .decReg r => decReg r s
  | .incPair p => incPair p s
  | .decPair p => decPair p s
  | .jr e => execJr e s
  | .jrNZ e => execJrNZ e s
  | .jrZ e => execJrZ e s
  | .call a => execCall a s
  | .ret => execRet s
  | .pushPair p => pushPair p s
  | .popPair p => popPair p s
  | .rla => execRla s
  | .rlReg r => rotateReg r s
  | .bitReg b r => testBit b r s

/-- Executing the instruction of a form is that form's meaning. -/
theorem exec_instr (f : Form) (s : State) : exec f.instr s = formMeaning f s := by
  cases f with
  | ldReg_n8 r n => cases r <;> rfl
  | ldPair_n16 p n => cases p <;> rfl
  | ldReg_reg dst src => cases dst <;> cases src <;> rfl
  | ldReg_atHL r | ldAtHL_reg r | addA_reg r | subReg r | cpReg r | incReg r | decReg r | rlReg r => cases r <;> rfl
  | incPair p | decPair p | pushPair p | popPair p => cases p <;> rfl
  | bitReg b r =>
    match b with
    | 0 | 1 | 2 | 3 | 4 | 5 | 6 | 7 => cases r <;> rfl
  | _ => rfl

/-- What each form does once PC is PC_next. -/
def formEffect (f : Form) : Effect := fun s =>
  match f with
  | .ldReg_n8 r n => .ok (s.setReg r n)
  | .ldPair_n16 p n => .ok (s.setLoadPair p n)
  | .ldReg_reg dst src => .ok (s.setReg dst (s.regs.get src))
  | .ldReg_atHL r => .ok (s.setReg r (s.memRead (atPair .hl s)))
  | .ldAtHL_reg r => .ok (s.memWrite (atPair .hl s) (s.regs.get r))
  | .ldAtBC_A => .ok (s.memWrite (atPair .bc s) (s.regs.get .a))
  | .ldAtDE_A => .ok (s.memWrite (atPair .de s) (s.regs.get .a))
  | .ldA_atBC => .ok (s.setReg .a (s.memRead (atPair .bc s)))
  | .ldA_atDE => .ok (s.setReg .a (s.memRead (atPair .de s)))
  | .ldAtHLinc_A => .ok ((s.memWrite (atPair .hl s) (s.regs.get .a)).setPair .hl (atPair .hl s + 1))
  | .ldAtHLdec_A => .ok ((s.memWrite (atPair .hl s) (s.regs.get .a)).setPair .hl (atPair .hl s - 1))
  | .ldhAtN8_A n => .ok (s.memWrite (atN8 n s) (s.regs.get .a))
  | .ldhA_atN8 n => .ok (s.setReg .a (s.memRead (atN8 n s)))
  | .ldAtC_A => .ok (s.memWrite (atC s) (s.regs.get .a))
  | .ldA_atC => .ok (s.setReg .a (s.memRead (atC s)))
  | .ldAtA16_A a => .ok (s.memWrite (atA16 a s) (s.regs.get .a))
  | .ldA_atA16 a => .ok (s.setReg .a (s.memRead (atA16 a s)))
  | .addA_reg r => addEffect (.reg r) s
  | .addA_atHL => addEffect .atHL s
  | .addA_n8 n => addEffect (.imm n) s
  | .subReg r => subEffect (.reg r) s
  | .subAtHL => subEffect .atHL s
  | .subN8 n => subEffect (.imm n) s
  | .cpReg r => .ok (s.writeFlags (sub8 (s.regs.get .a) (s.source (.reg r))).flags)
  | .cpAtHL => .ok (s.writeFlags (sub8 (s.regs.get .a) (s.source .atHL)).flags)
  | .cpN8 n => .ok (s.writeFlags (sub8 (s.regs.get .a) (s.source (.imm n))).flags)
  | .xorA => .ok { s.setReg .a 0 with flags := { z := true, n := false, h := false, c := false } }
  | .incReg r =>
    .ok ((s.setReg r (inc8 (s.regs.get r) s.flags.c).result).writeFlags (inc8 (s.regs.get r) s.flags.c).flags)
  | .decReg r =>
    .ok ((s.setReg r (dec8 (s.regs.get r) s.flags.c).result).writeFlags (dec8 (s.regs.get r) s.flags.c).flags)
  | .incPair p => .ok (s.setLoadPair p (s.loadPair p + 1))
  | .decPair p => .ok (s.setLoadPair p (s.loadPair p - 1))
  | .jr e => jumpEffect true e s
  | .jrNZ e => jumpEffect (!s.flags.z) e s
  | .jrZ e => jumpEffect s.flags.z e s
  | .call a =>
    match push16 s.pc s with
    | .error x => .error x
    | .ok t => .ok { t with pc := a }
  | .ret =>
    match pop16 s with
    | .error x => .error x
    | .ok (v, t) => .ok { t with pc := v }
  | .pushPair p => push16 (s.regs.pair p) s
  | .popPair p =>
    match pop16 s with
    | .error x => .error x
    | .ok (v, t) => .ok (t.setPair p v)
  | .rla =>
    .ok { s.setReg .a (rotateLeft (s.regs.get .a) s.flags.c) with
          flags := { z := false, n := false, h := false, c := bitOf (s.regs.get .a) 7 } }
  | .rlReg r =>
    .ok { s.setReg r (rotateLeft (s.regs.get r) s.flags.c) with
          flags := { z := rotateLeft (s.regs.get r) s.flags.c == 0, n := false, h := false, c := bitOf (s.regs.get r) 7 } }
  | .bitReg b r =>
    .ok { s with flags := { z := !bitOf (s.regs.get r) b.val, n := false, h := true, c := s.flags.c } }
where
  addEffect (src : Source) : Effect := fun s =>
    .ok ((s.setReg .a (add8 (s.regs.get .a) (s.source src)).result).writeFlags
      (add8 (s.regs.get .a) (s.source src)).flags)
  subEffect (src : Source) : Effect := fun s =>
    .ok ((s.setReg .a (sub8 (s.regs.get .a) (s.source src)).result).writeFlags
      (sub8 (s.regs.get .a) (s.source src)).flags)
  jumpEffect (taken : Bool) (e : Int) : Effect := fun s =>
    if taken then
      match s.addr (s.pc.toNat + e) with
      | .error x => .error x
      | .ok target => .ok { s with pc := target }
    else .ok s

/-- Every form's meaning is its effect run by `complete`, over the form's length. -/
theorem formMeaning_eq (f : Form) (s : State) : formMeaning f s = s.complete f.length (formEffect f) := by
  cases f <;> rfl

/-- Every instruction is the instruction of its form. -/
theorem instr_form (i : Instr) : i.form.instr = i := by
  cases i <;> rfl

/-- Executing any instruction is running its form's effect over its length: with `complete_cases`, a proof about every
instruction is one about the 41 effects. -/
theorem exec_eq (i : Instr) (s : State) : exec i s = s.complete i.length (formEffect i.form) := by
  have h := exec_instr i.form s
  rw [instr_form, formMeaning_eq] at h
  exact h

end Sys2Proof.Machine
end

