-- ==== Sys2Proof/Laws/PerInstr.lean ====
section
/-! SUPPORT. Facts about every instruction as a term, one lemma per constructor. The family FormOf says that a constructor is
the instruction of its own form: the 41 forms cover all 211 instructions. -/

namespace Sys2Proof.Laws.FormOf

/-- An instruction is the instruction of its form. -/
def Statement (i : Instr) : Prop := i.form.instr = i

theorem ldB_n8 (n : Byte) : Statement (.ldB_n8 n) := rfl
theorem ldC_n8 (n : Byte) : Statement (.ldC_n8 n) := rfl
theorem ldD_n8 (n : Byte) : Statement (.ldD_n8 n) := rfl
theorem ldE_n8 (n : Byte) : Statement (.ldE_n8 n) := rfl
theorem ldH_n8 (n : Byte) : Statement (.ldH_n8 n) := rfl
theorem ldL_n8 (n : Byte) : Statement (.ldL_n8 n) := rfl
theorem ldA_n8 (n : Byte) : Statement (.ldA_n8 n) := rfl
theorem ldBC_n16 (n : Word) : Statement (.ldBC_n16 n) := rfl
theorem ldDE_n16 (n : Word) : Statement (.ldDE_n16 n) := rfl
theorem ldHL_n16 (n : Word) : Statement (.ldHL_n16 n) := rfl
theorem ldSP_n16 (n : Word) : Statement (.ldSP_n16 n) := rfl
theorem ldB_B : Statement .ldB_B := rfl
theorem ldB_C : Statement .ldB_C := rfl
theorem ldB_D : Statement .ldB_D := rfl
theorem ldB_E : Statement .ldB_E := rfl
theorem ldB_H : Statement .ldB_H := rfl
theorem ldB_L : Statement .ldB_L := rfl
theorem ldB_A : Statement .ldB_A := rfl
theorem ldC_B : Statement .ldC_B := rfl
theorem ldC_C : Statement .ldC_C := rfl
theorem ldC_D : Statement .ldC_D := rfl
theorem ldC_E : Statement .ldC_E := rfl
theorem ldC_H : Statement .ldC_H := rfl
theorem ldC_L : Statement .ldC_L := rfl
theorem ldC_A : Statement .ldC_A := rfl
theorem ldD_B : Statement .ldD_B := rfl
theorem ldD_C : Statement .ldD_C := rfl
theorem ldD_D : Statement .ldD_D := rfl
theorem ldD_E : Statement .ldD_E := rfl
theorem ldD_H : Statement .ldD_H := rfl
theorem ldD_L : Statement .ldD_L := rfl
theorem ldD_A : Statement .ldD_A := rfl
theorem ldE_B : Statement .ldE_B := rfl
theorem ldE_C : Statement .ldE_C := rfl
theorem ldE_D : Statement .ldE_D := rfl
theorem ldE_E : Statement .ldE_E := rfl
theorem ldE_H : Statement .ldE_H := rfl
theorem ldE_L : Statement .ldE_L := rfl
theorem ldE_A : Statement .ldE_A := rfl
theorem ldH_B : Statement .ldH_B := rfl
theorem ldH_C : Statement .ldH_C := rfl
theorem ldH_D : Statement .ldH_D := rfl
theorem ldH_E : Statement .ldH_E := rfl
theorem ldH_H : Statement .ldH_H := rfl
theorem ldH_L : Statement .ldH_L := rfl
theorem ldH_A : Statement .ldH_A := rfl
theorem ldL_B : Statement .ldL_B := rfl
theorem ldL_C : Statement .ldL_C := rfl
theorem ldL_D : Statement .ldL_D := rfl
theorem ldL_E : Statement .ldL_E := rfl
theorem ldL_H : Statement .ldL_H := rfl
theorem ldL_L : Statement .ldL_L := rfl
theorem ldL_A : Statement .ldL_A := rfl
theorem ldA_B : Statement .ldA_B := rfl
theorem ldA_C : Statement .ldA_C := rfl
theorem ldA_D : Statement .ldA_D := rfl
theorem ldA_E : Statement .ldA_E := rfl
theorem ldA_H : Statement .ldA_H := rfl
theorem ldA_L : Statement .ldA_L := rfl
theorem ldA_A : Statement .ldA_A := rfl
theorem ldB_atHL : Statement .ldB_atHL := rfl
theorem ldC_atHL : Statement .ldC_atHL := rfl
theorem ldD_atHL : Statement .ldD_atHL := rfl
theorem ldE_atHL : Statement .ldE_atHL := rfl
theorem ldH_atHL : Statement .ldH_atHL := rfl
theorem ldL_atHL : Statement .ldL_atHL := rfl
theorem ldA_atHL : Statement .ldA_atHL := rfl
theorem ldAtHL_B : Statement .ldAtHL_B := rfl
theorem ldAtHL_C : Statement .ldAtHL_C := rfl
theorem ldAtHL_D : Statement .ldAtHL_D := rfl
theorem ldAtHL_E : Statement .ldAtHL_E := rfl
theorem ldAtHL_H : Statement .ldAtHL_H := rfl
theorem ldAtHL_L : Statement .ldAtHL_L := rfl
theorem ldAtHL_A : Statement .ldAtHL_A := rfl
theorem ldAtBC_A : Statement .ldAtBC_A := rfl
theorem ldAtDE_A : Statement .ldAtDE_A := rfl
theorem ldA_atBC : Statement .ldA_atBC := rfl
theorem ldA_atDE : Statement .ldA_atDE := rfl
theorem ldAtHLinc_A : Statement .ldAtHLinc_A := rfl
theorem ldAtHLdec_A : Statement .ldAtHLdec_A := rfl
theorem ldhAtN8_A (n : Byte) : Statement (.ldhAtN8_A n) := rfl
theorem ldhA_atN8 (n : Byte) : Statement (.ldhA_atN8 n) := rfl
theorem ldAtC_A : Statement .ldAtC_A := rfl
theorem ldA_atC : Statement .ldA_atC := rfl
theorem ldAtA16_A (a : Word) : Statement (.ldAtA16_A a) := rfl
theorem ldA_atA16 (a : Word) : Statement (.ldA_atA16 a) := rfl
theorem addA_B : Statement .addA_B := rfl
theorem addA_C : Statement .addA_C := rfl
theorem addA_D : Statement .addA_D := rfl
theorem addA_E : Statement .addA_E := rfl
theorem addA_H : Statement .addA_H := rfl
theorem addA_L : Statement .addA_L := rfl
theorem addA_A : Statement .addA_A := rfl
theorem addA_atHL : Statement .addA_atHL := rfl
theorem addA_n8 (n : Byte) : Statement (.addA_n8 n) := rfl
theorem subB : Statement .subB := rfl
theorem subC : Statement .subC := rfl
theorem subD : Statement .subD := rfl
theorem subE : Statement .subE := rfl
theorem subH : Statement .subH := rfl
theorem subL : Statement .subL := rfl
theorem subA : Statement .subA := rfl
theorem subAtHL : Statement .subAtHL := rfl
theorem subN8 (n : Byte) : Statement (.subN8 n) := rfl
theorem cpB : Statement .cpB := rfl
theorem cpC : Statement .cpC := rfl
theorem cpD : Statement .cpD := rfl
theorem cpE : Statement .cpE := rfl
theorem cpH : Statement .cpH := rfl
theorem cpL : Statement .cpL := rfl
theorem cpA : Statement .cpA := rfl
theorem cpAtHL : Statement .cpAtHL := rfl
theorem cpN8 (n : Byte) : Statement (.cpN8 n) := rfl
theorem xorA : Statement .xorA := rfl
theorem incB : Statement .incB := rfl
theorem incC : Statement .incC := rfl
theorem incD : Statement .incD := rfl
theorem incE : Statement .incE := rfl
theorem incH : Statement .incH := rfl
theorem incL : Statement .incL := rfl
theorem incA : Statement .incA := rfl
theorem decB : Statement .decB := rfl
theorem decC : Statement .decC := rfl
theorem decD : Statement .decD := rfl
theorem decE : Statement .decE := rfl
theorem decH : Statement .decH := rfl
theorem decL : Statement .decL := rfl
theorem decA : Statement .decA := rfl
theorem incBC : Statement .incBC := rfl
theorem incDE : Statement .incDE := rfl
theorem incHL : Statement .incHL := rfl
theorem incSP : Statement .incSP := rfl
theorem decBC : Statement .decBC := rfl
theorem decDE : Statement .decDE := rfl
theorem decHL : Statement .decHL := rfl
theorem decSP : Statement .decSP := rfl
theorem jr (e : Int) : Statement (.jr e) := rfl
theorem jrNZ (e : Int) : Statement (.jrNZ e) := rfl
theorem jrZ (e : Int) : Statement (.jrZ e) := rfl
theorem call (a : Word) : Statement (.call a) := rfl
theorem ret : Statement .ret := rfl
theorem pushBC : Statement .pushBC := rfl
theorem pushDE : Statement .pushDE := rfl
theorem pushHL : Statement .pushHL := rfl
theorem popBC : Statement .popBC := rfl
theorem popDE : Statement .popDE := rfl
theorem popHL : Statement .popHL := rfl
theorem rla : Statement .rla := rfl
theorem rlB : Statement .rlB := rfl
theorem rlC : Statement .rlC := rfl
theorem rlD : Statement .rlD := rfl
theorem rlE : Statement .rlE := rfl
theorem rlH : Statement .rlH := rfl
theorem rlL : Statement .rlL := rfl
theorem rlA : Statement .rlA := rfl
theorem bit0_B : Statement .bit0_B := rfl
theorem bit0_C : Statement .bit0_C := rfl
theorem bit0_D : Statement .bit0_D := rfl
theorem bit0_E : Statement .bit0_E := rfl
theorem bit0_H : Statement .bit0_H := rfl
theorem bit0_L : Statement .bit0_L := rfl
theorem bit0_A : Statement .bit0_A := rfl
theorem bit1_B : Statement .bit1_B := rfl
theorem bit1_C : Statement .bit1_C := rfl
theorem bit1_D : Statement .bit1_D := rfl
theorem bit1_E : Statement .bit1_E := rfl
theorem bit1_H : Statement .bit1_H := rfl
theorem bit1_L : Statement .bit1_L := rfl
theorem bit1_A : Statement .bit1_A := rfl
theorem bit2_B : Statement .bit2_B := rfl
theorem bit2_C : Statement .bit2_C := rfl
theorem bit2_D : Statement .bit2_D := rfl
theorem bit2_E : Statement .bit2_E := rfl
theorem bit2_H : Statement .bit2_H := rfl
theorem bit2_L : Statement .bit2_L := rfl
theorem bit2_A : Statement .bit2_A := rfl
theorem bit3_B : Statement .bit3_B := rfl
theorem bit3_C : Statement .bit3_C := rfl
theorem bit3_D : Statement .bit3_D := rfl
theorem bit3_E : Statement .bit3_E := rfl
theorem bit3_H : Statement .bit3_H := rfl
theorem bit3_L : Statement .bit3_L := rfl
theorem bit3_A : Statement .bit3_A := rfl
theorem bit4_B : Statement .bit4_B := rfl
theorem bit4_C : Statement .bit4_C := rfl
theorem bit4_D : Statement .bit4_D := rfl
theorem bit4_E : Statement .bit4_E := rfl
theorem bit4_H : Statement .bit4_H := rfl
theorem bit4_L : Statement .bit4_L := rfl
theorem bit4_A : Statement .bit4_A := rfl
theorem bit5_B : Statement .bit5_B := rfl
theorem bit5_C : Statement .bit5_C := rfl
theorem bit5_D : Statement .bit5_D := rfl
theorem bit5_E : Statement .bit5_E := rfl
theorem bit5_H : Statement .bit5_H := rfl
theorem bit5_L : Statement .bit5_L := rfl
theorem bit5_A : Statement .bit5_A := rfl
theorem bit6_B : Statement .bit6_B := rfl
theorem bit6_C : Statement .bit6_C := rfl
theorem bit6_D : Statement .bit6_D := rfl
theorem bit6_E : Statement .bit6_E := rfl
theorem bit6_H : Statement .bit6_H := rfl
theorem bit6_L : Statement .bit6_L := rfl
theorem bit6_A : Statement .bit6_A := rfl
theorem bit7_B : Statement .bit7_B := rfl
theorem bit7_C : Statement .bit7_C := rfl
theorem bit7_D : Statement .bit7_D := rfl
theorem bit7_E : Statement .bit7_E := rfl
theorem bit7_H : Statement .bit7_H := rfl
theorem bit7_L : Statement .bit7_L := rfl
theorem bit7_A : Statement .bit7_A := rfl

end Sys2Proof.Laws.FormOf
end

