-- ==== Sys2Proof/Laws/Step.lean ====
section
/-! SUPPORT. What one step can do, said once: the inversion lemmas of fetching, of executing and of the system step. -/

namespace Sys2Proof.Machine

/-! ## Errors come from EDGE_MODE = fault -/

theorem State.addr_error {s : State} {v x : Int} (h : s.addr v = .error x) : s.cfg.edgeMode = .fault :=
  (edgeAddr_error_iff.1 h).1

theorem push16_error {v : Word} {s : State} {x : Int} (h : push16 v s = .error x) : s.cfg.edgeMode = .fault := by
  unfold push16 at h
  split at h
  · exact State.addr_error (by assumption)
  · split at h
    · exact State.addr_error (by assumption)
    · cases h

theorem pop16_error {s : State} {x : Int} (h : pop16 s = .error x) : s.cfg.edgeMode = .fault := by
  unfold pop16 at h
  split at h
  · exact State.addr_error (by assumption)
  · split at h
    · exact State.addr_error (by assumption)
    · cases h

theorem formEffect_error (f : Form) (s : State) (v : Int) (h : formEffect f s = .error v) :
    s.cfg.edgeMode = .fault := by
  cases f <;>
    simp only [formEffect, formEffect.addEffect, formEffect.subEffect, formEffect.jumpEffect, reduceCtorEq] at h
  case pushPair => exact push16_error h
  all_goals
    (repeat' split at h) <;>
      first
      | (cases h; done)
      | exact State.addr_error (by assumption)
      | exact push16_error (by assumption)
      | exact pop16_error (by assumption)

/-! ## One instruction, one step -/

/-- Everything exec can do: the form's effect at PC_next, or an EdgeFault taken in the state before. -/
theorem exec_cases (i : Instr) (s t : State) (h : exec i s = .next t) :
    (PcFits s i.length ∧ formEffect i.form { s with pc := s.pc + BitVec.ofNat 16 i.length } = .ok t) ∨
    (s.cfg.edgeMode = .fault ∧ ∃ v, t = s.takeFault (.edgeFault v)) := by
  rw [exec_eq] at h
  rcases complete_cases i.length (formEffect i.form) s with ⟨hp, t', h', e⟩ | ⟨hp, v, h', e⟩ | ⟨hm, _, e⟩ <;>
    rw [e] at h <;> cases h
  · exact .inl ⟨hp, h'⟩
  · exact .inr ⟨formEffect_error _ { s with pc := s.pc + BitVec.ofNat 16 i.length } _ h', v, rfl⟩
  · exact .inr ⟨hm, _, rfl⟩

/-- A byte of the instruction whose address fits is fetched as MemRead gives it. -/
theorem fetchByte_ok (s : State) (k : Nat) (hk : k < 3) (h : BytesFit s (k + 1)) :
    s.fetchByte k = .ok (s.bytesAtPc.getD k 0) := by
  unfold State.fetchByte
  rw [State.addr_add (h.imp id (by omega))]
  have : k = 0 ∨ k = 1 ∨ k = 2 := by omega
  rcases this with rfl | rfl | rfl
  · simp [State.bytesAtPc]
  · rfl
  · rfl

/-- A byte beyond the address space is an EdgeFault in fault mode. -/
theorem fetchByte_error (s : State) (k : Nat) (hm : s.cfg.edgeMode = .fault) (h : 0xFFFF < s.pc.toNat + k) :
    s.fetchByte k = .error (.edgeFault (s.pc.toNat + k)) := by
  unfold State.fetchByte State.addr
  rw [hm, edgeAddr_error (by omega)]

/-- Everything a system step can do: the exception of the fetch, an exec and its tick, or an exec that faults. -/
theorem systemStep_cases {s t : State} {o : Output} (h : systemStep s = .next (t, o)) :
    s.Running ∧
    ((∃ x, s.fetch = .error x ∧ (t, o) = afterStep (s.takeFault x)) ∨
     (∃ i u, s.fetch = .ok i ∧ exec i s = .next u ∧ (t, o) = afterStep u)) := by
  unfold systemStep at h
  split at h
  · cases h
  rename_i hr
  refine ⟨hr, ?_⟩
  split at h
  case h_2 => cases h
  case h_3 => cases h
  rename_i u hi
  have h : (t, o) = afterStep u := by
    simp only [Host.Outcome.next.injEq] at h
    exact h.symm
  unfold interpret at hi
  split at hi
  · rename_i x hx
    cases hi
    exact .inl ⟨x, hx, h⟩
  · rename_i i hf
    exact .inr ⟨i, u, hf, hi, h⟩

end Sys2Proof.Machine
end

