-- ==== Sys2Proof/Tests/Slice0.lean ====
section
/-! SUPPORT. The model's own tests: the WellFormed smoke, words decoded as the spec's encodings read, one step of each family
with the results of 95_test_vectors.md (named in each test), and a witness for the hypotheses of every statement. -/

namespace Sys2Proof.Tests

open Sys2Proof Sys2Proof.Machine Sys2Proof.Claims

/-! ## Helpers -/

/-- The registers the spec's programs start with (95_test_vectors.md, Part 3). -/
def regs0 : Regs := { a := 0x11, b := 0x22, c := 0x33, d := 0x44, e := 0x55, h := 0x66, l := 0x77 }

/-- The four flags, written ZNHC. -/
def znhc (v : BitVec 4) : Flags := { z := v.getLsbD 3, n := v.getLsbD 2, h := v.getLsbD 1, c := v.getLsbD 0 }

/-- A machine with bytes at an address and PC there. -/
def start (pc : Word) (bytes : List Byte) : State :=
  { State.reset with regs := regs0, sp := 0x1234, pc := pc, mem := Memory.placeAt [] pc bytes }

/-- The machine in EDGE_MODE = fault. -/
def faulting (s : State) : State := { s with cfg := { s.cfg with edgeMode := .fault } }

/-- The machine in FLAG_MODE = reference. -/
def drawing (s : State) : State := { s with cfg := { s.cfg with flagMode := .reference } }

/-- The machine with one more byte in memory. -/
def poke (s : State) (a : Word) (v : Byte) : State := { s with mem := s.mem.setByte a.toNat v }

/-- The state one step later (the same state where the machine has stopped). -/
def after (s : State) : State :=
  match step s with
  | .next t => t
  | .fault _ => s
  | .refused _ => s

/-- The record of a Faulted machine. -/
def recordOf (s : State) : Option FaultRecord :=
  match s.status with
  | .running => none
  | .faulted r => some r


/-! ## WellFormed refuses what no byte stands for (R12, R87) -/

theorem test_wf_jr_high : ¬ WellFormed (.jr 128) := by decide
theorem test_wf_jr_low : ¬ WellFormed (.jr (-129)) := by decide
theorem test_wf_jrNZ : ¬ WellFormed (.jrNZ 128) ∧ ¬ WellFormed (.jrNZ (-129)) := by decide
theorem test_wf_jrZ : ¬ WellFormed (.jrZ 128) ∧ ¬ WellFormed (.jrZ (-129)) := by decide
theorem test_wf_jr_ends : WellFormed (.jr 127) ∧ WellFormed (.jr (-128)) := by decide

/-! ## Words written out from the patterns of R83 to R88 and the maps of R91 and R92 -/

/-- 00 111 110 -/
theorem test_decode_ld_r_n8 : decode [0b00111110, 0x80] = .ok (.ldA_n8 0x80, []) := rfl
/-- 00 11 0001, low byte first (R87) -/
theorem test_decode_ld_rr_n16 : decode [0b00110001, 0xFE, 0xFF] = .ok (.ldSP_n16 0xFFFE, []) := rfl
/-- 01 010 111 -/
theorem test_decode_ld_r_r : decode [0b01010111] = .ok (.ldD_A, []) := rfl
/-- 01 100 110 -/
theorem test_decode_ld_r_hl : decode [0b01100110] = .ok (.ldH_atHL, []) := rfl
/-- 01 110 101 -/
theorem test_decode_ld_hl_r : decode [0b01110101] = .ok (.ldAtHL_L, []) := rfl
theorem test_decode_ld_bc_a : decode [0x02] = .ok (.ldAtBC_A, []) := rfl
theorem test_decode_ld_de_a : decode [0x12] = .ok (.ldAtDE_A, []) := rfl
theorem test_decode_ld_a_bc : decode [0x0A] = .ok (.ldA_atBC, []) := rfl
theorem test_decode_ld_a_de : decode [0x1A] = .ok (.ldA_atDE, []) := rfl
theorem test_decode_ld_hli_a : decode [0x22] = .ok (.ldAtHLinc_A, []) := rfl
theorem test_decode_ld_hld_a : decode [0x32] = .ok (.ldAtHLdec_A, []) := rfl
theorem test_decode_ldh_n8_a : decode [0xE0, 0x42] = .ok (.ldhAtN8_A 0x42, []) := rfl
theorem test_decode_ldh_a_n8 : decode [0xF0, 0x44] = .ok (.ldhA_atN8 0x44, []) := rfl
theorem test_decode_ld_c_a : decode [0xE2] = .ok (.ldAtC_A, []) := rfl
theorem test_decode_ld_a_c : decode [0xF2] = .ok (.ldA_atC, []) := rfl
theorem test_decode_ld_a16_a : decode [0xEA, 0x10, 0x99] = .ok (.ldAtA16_A 0x9910, []) := rfl
theorem test_decode_ld_a_a16 : decode [0xFA, 0x44, 0xFF] = .ok (.ldA_atA16 0xFF44, []) := rfl
/-- 10 000 001 -/
theorem test_decode_add_r : decode [0b10000001] = .ok (.addA_C, []) := rfl
/-- 10 000 110 -/
theorem test_decode_add_hl : decode [0b10000110] = .ok (.addA_atHL, []) := rfl
theorem test_decode_add_n8 : decode [0xC6, 0x01] = .ok (.addA_n8 1, []) := rfl
/-- 10 010 011 -/
theorem test_decode_sub_r : decode [0b10010011] = .ok (.subE, []) := rfl
/-- 10 010 110 -/
theorem test_decode_sub_hl : decode [0b10010110] = .ok (.subAtHL, []) := rfl
theorem test_decode_sub_n8 : decode [0xD6, 0x0F] = .ok (.subN8 0x0F, []) := rfl
/-- 10 111 101 -/
theorem test_decode_cp_r : decode [0b10111101] = .ok (.cpL, []) := rfl
/-- 10 111 110 -/
theorem test_decode_cp_hl : decode [0b10111110] = .ok (.cpAtHL, []) := rfl
theorem test_decode_cp_n8 : decode [0xFE, 0x90] = .ok (.cpN8 0x90, []) := rfl
theorem test_decode_xor_a : decode [0xAF] = .ok (.xorA, []) := rfl
/-- 00 101 100 -/
theorem test_decode_inc_r : decode [0b00101100] = .ok (.incL, []) := rfl
/-- 00 010 101 -/
theorem test_decode_dec_r : decode [0b00010101] = .ok (.decD, []) := rfl
/-- 00 10 0011 -/
theorem test_decode_inc_rr : decode [0b00100011] = .ok (.incHL, []) := rfl
/-- 00 01 1011 -/
theorem test_decode_dec_rr : decode [0b00011011] = .ok (.decDE, []) := rfl
/-- displacement 0xFE is -2 (S4) -/
theorem test_decode_jr : decode [0x18, 0xFE] = .ok (.jr (-2), []) := rfl
/-- P2 -/
theorem test_decode_jr_nz : decode [0x20, 0xFB] = .ok (.jrNZ (-5), []) := rfl
theorem test_decode_jr_z : decode [0x28, 0x08] = .ok (.jrZ 8, []) := rfl
theorem test_decode_call : decode [0xCD, 0x95, 0x00] = .ok (.call 0x0095, []) := rfl
theorem test_decode_ret : decode [0xC9] = .ok (.ret, []) := rfl
/-- 11 01 0101 -/
theorem test_decode_push : decode [0b11010101] = .ok (.pushDE, []) := rfl
/-- 11 10 0001 -/
theorem test_decode_pop : decode [0b11100001] = .ok (.popHL, []) := rfl
theorem test_decode_rla : decode [0x17] = .ok (.rla, []) := rfl
/-- 00 010 001 after 0xCB -/
theorem test_decode_rl : decode [0xCB, 0b00010001] = .ok (.rlC, []) := rfl
/-- 01 111 100 after 0xCB -/
theorem test_decode_bit : decode [0xCB, 0b01111100] = .ok (.bit7_H, []) := rfl
/-- R91 and R92: a dash in each map. -/
theorem test_decode_reserved :
    decode [0xDD] = .error (.unsupported false 0xDD) ∧
    decode [0xCB, 0x46] = .error (.unsupported true 0x46) := ⟨rfl, rfl⟩
theorem test_decode_truncated : decode [0x3E] = .error .truncated ∧ decode [] = .error .truncated := ⟨rfl, rfl⟩
theorem test_decode_rest : decode [0xCD, 0x95, 0x00, 0x17] = .ok (.call 0x0095, [0x17]) := rfl
/-- The table gives P2 and P3 rows 8 bits and CB rows 16 with 0xCB high. -/
theorem test_table_words :
    decodeTableWord 8 0x3E = some (.ldA_n8 0) ∧
    decodeTableWord 16 0xCB11 = some .rlC ∧
    decodeTableWord 24 0x0095CD = some (.call 0x0095) ∧
    decodeTableWord 8 0xDD = none := by decide

/-- An encoding table may say an instruction's word and the host runs it first after reset. -/
theorem test_withFetchWord : (after (State.reset.withFetchWord 16 0xCB7C)).flags = znhc 0b1010 ∧
    (after (State.reset.withFetchWord 8 0x3E)).pc = 2 := by decide

/-! ## One step of each family (95_test_vectors.md) -/

/-- LD2. -/
theorem test_ld_r_n8 :
    (after { start 0x0100 [0x3E, 0x00] with flags := znhc 0b1111 }).regs.a = 0x00 ∧
    (after { start 0x0100 [0x3E, 0x00] with flags := znhc 0b1111 }).flags = znhc 0b1111 := by decide
/-- LD4. -/
theorem test_ld_rr_n16 :
    (after (start 0x0100 [0x21, 0xFF, 0x9F])).regs.h = 0x9F ∧
    (after (start 0x0100 [0x21, 0xFF, 0x9F])).regs.l = 0xFF := by decide
/-- LD3. -/
theorem test_ld_sp_n16 :
    (after (start 0x0100 [0x31, 0xFE, 0xFF])).sp = 0xFFFE ∧
    (after (start 0x0100 [0x31, 0xFE, 0xFF])).pc = 0x0103 := by decide
/-- LD5. -/
theorem test_ld_r_r : (after (start 0x0100 [0x78])).regs = { regs0 with a := 0x22 } := by decide
/-- LD7: the address is H:L before the write. -/
theorem test_ld_r_hl :
    (after (poke { start 0x0100 [0x66] with regs := { regs0 with h := 0xC0, l := 0x00 } } 0xC000 0x99)).regs.h = 0x99 ∧
    (after (poke { start 0x0100 [0x66] with regs := { regs0 with h := 0xC0, l := 0x00 } } 0xC000 0x99)).regs.l = 0x00 := by decide
/-- LD8: LY reads as LY_VALUE. -/
theorem test_ld_r_hl_ly :
    (after { start 0x0100 [0x7E] with regs := { regs0 with h := 0xFF, l := 0x44 } }).regs.a = 0x90 := by decide
/-- LD9. -/
theorem test_ld_hl_r :
    (after { start 0x0100 [0x75] with regs := { regs0 with h := 0xC0, l := 0xDE } }).mem.byteAt 0xC0DE = 0xDE := by decide
/-- LD10: a store to LY is discarded. -/
theorem test_ld_hl_r_ly :
    (after { start 0x0100 [0x77] with regs := { regs0 with h := 0xFF, l := 0x44 } }).mem = Memory.placeAt [] 0x0100 [0x77] ∧
    (after { start 0x0100 [0x77] with regs := { regs0 with h := 0xFF, l := 0x44 } }).memRead 0xFF44 = 0x90 := by decide
/-- S3. -/
theorem test_ld_bc_a :
    (after { start 0x0100 [0x02] with regs := { regs0 with a := 0x77, b := 0x12, c := 0x34 } }).mem.byteAt 0x1234 = 0x77 := by decide
/-- S3. -/
theorem test_ld_de_a :
    (after { start 0x0100 [0x12] with regs := { regs0 with a := 0x55, d := 0xC0, e := 0x00 } }).mem.byteAt 0xC000 = 0x55 := by decide
/-- LD11. -/
theorem test_ld_a_bc :
    (after (poke { start 0x0100 [0x0A] with regs := { regs0 with b := 0xC0, c := 0x00 } } 0xC000 0x12)).regs.a = 0x12 := by decide
/-- LD12. -/
theorem test_ld_a_de :
    (after (poke { start 0x0200 [0x1A] with regs := { regs0 with d := 0x01, e := 0x04 } } 0x0104 0xCE)).regs.a = 0xCE := by decide
/-- LD13: the pair wraps in any EDGE_MODE. -/
theorem test_ld_hli_a :
    (after (faulting { start 0x0100 [0x22] with regs := { regs0 with a := 0x01, h := 0xFF, l := 0xFF } })).mem.byteAt 0xFFFF = 0x01 ∧
    (after (faulting { start 0x0100 [0x22] with regs := { regs0 with a := 0x01, h := 0xFF, l := 0xFF } })).regs.h = 0x00 ∧
    (after (faulting { start 0x0100 [0x22] with regs := { regs0 with a := 0x01, h := 0xFF, l := 0xFF } })).regs.l = 0x00 := by decide
/-- LD14. -/
theorem test_ld_hld_a :
    (after { start 0x0100 [0x32] with regs := { regs0 with a := 0x02, h := 0x00, l := 0x00 } }).mem.byteAt 0x0000 = 0x02 ∧
    (after { start 0x0100 [0x32] with regs := { regs0 with a := 0x02, h := 0x00, l := 0x00 } }).regs.h = 0xFF ∧
    (after { start 0x0100 [0x32] with regs := { regs0 with a := 0x02, h := 0x00, l := 0x00 } }).regs.l = 0xFF := by decide
/-- LD16. -/
theorem test_ldh_n8_a :
    (after { start 0x0100 [0xE0, 0x42] with regs := { regs0 with a := 0x64 } }).mem.byteAt 0xFF42 = 0x64 := by decide
/-- LD18: 0xFF00 is plain storage. -/
theorem test_ldh_a_n8 : (after (poke (start 0x0100 [0xF0, 0x00]) 0xFF00 0xCF)).regs.a = 0xCF := by decide
/-- LD19. -/
theorem test_ld_c_a :
    (after { start 0x0100 [0xE2] with regs := { regs0 with a := 0x80, c := 0x11 } }).mem.byteAt 0xFF11 = 0x80 := by decide
/-- LD20. -/
theorem test_ld_a_c : (after { start 0x0100 [0xF2] with regs := { regs0 with c := 0x44 } }).regs.a = 0x90 := by decide
/-- LD21. -/
theorem test_ld_a16_a :
    (after { start 0x0100 [0xEA, 0x10, 0x99] with regs := { regs0 with a := 0x19 } }).mem.byteAt 0x9910 = 0x19 := by decide
/-- LD22. -/
theorem test_ld_a_a16 :
    (after (start 0x0100 [0xFA, 0x44, 0xFF])).regs.a = 0x90 ∧
    (after (start 0x0100 [0xFA, 0x44, 0xFF])).pc = 0x0103 := by decide
/-- A10: ADD A,A reads A before it is written. -/
theorem test_add_r :
    (after { start 0x0100 [0x87] with regs := { regs0 with a := 0x08 } }).regs.a = 0x10 ∧
    (after { start 0x0100 [0x87] with regs := { regs0 with a := 0x08 } }).flags = znhc 0b0010 := by decide
/-- V-ALU: (HL) at 0xFF44 is LY_VALUE. -/
theorem test_add_hl_ly :
    (after { start 0x0100 [0x86] with regs := { regs0 with a := 0x10, h := 0xFF, l := 0x44 } }).regs.a = 0xA0 ∧
    (after { start 0x0100 [0x86] with regs := { regs0 with a := 0x10, h := 0xFF, l := 0x44 } }).flags = znhc 0b0000 := by decide
/-- A2. -/
theorem test_add_n8 :
    (after { start 0x0100 [0xC6, 0xC6] with regs := { regs0 with a := 0x3A } }).regs.a = 0x00 ∧
    (after { start 0x0100 [0xC6, 0xC6] with regs := { regs0 with a := 0x3A } }).flags = znhc 0b1011 := by decide
/-- A4: carry without half carry. -/
theorem test_add_n8_carry :
    (after { start 0x0100 [0xC6, 0x10] with regs := { regs0 with a := 0xF0 } }).flags = znhc 0b1001 ∧
    (after { start 0x0100 [0xC6, 0x10] with regs := { regs0 with a := 0xF0 } }).flags.packed = 0x90 := by decide
/-- S7v: SUB A. -/
theorem test_sub_r :
    (after (start 0x0100 [0x97])).regs.a = 0x00 ∧
    (after (start 0x0100 [0x97])).flags = znhc 0b1100 := by decide
/-- S2v. -/
theorem test_sub_n8_borrow :
    (after { start 0x0100 [0xD6, 0x01] with regs := { regs0 with a := 0x00 } }).regs.a = 0xFF ∧
    (after { start 0x0100 [0xD6, 0x01] with regs := { regs0 with a := 0x00 } }).flags = znhc 0b0111 := by decide
/-- S5v: borrow without half borrow. -/
theorem test_sub_n8 :
    (after { start 0x0100 [0xD6, 0x40] with regs := { regs0 with a := 0x3E } }).regs.a = 0xFE ∧
    (after { start 0x0100 [0xD6, 0x40] with regs := { regs0 with a := 0x3E } }).flags = znhc 0b0101 := by decide
/-- S4v. -/
theorem test_sub_hl :
    (after (poke { start 0x0100 [0x96] with regs := { regs0 with a := 0x3E } } 0x6677 0x0F)).regs.a = 0x2F ∧
    (after (poke { start 0x0100 [0x96] with regs := { regs0 with a := 0x3E } } 0x6677 0x0F)).flags = znhc 0b0110 := by decide
/-- C3v. -/
theorem test_cp_r :
    (after { start 0x0100 [0xB8] with regs := { regs0 with a := 0x00, b := 0x00 } }).regs.a = 0x00 ∧
    (after { start 0x0100 [0xB8] with regs := { regs0 with a := 0x00, b := 0x00 } }).flags = znhc 0b1100 := by decide
/-- C2v: A is unchanged. -/
theorem test_cp_hl :
    (after (poke { start 0x0100 [0xBE] with regs := { regs0 with a := 0x3C } } 0x6677 0x40)).regs.a = 0x3C ∧
    (after (poke { start 0x0100 [0xBE] with regs := { regs0 with a := 0x3C } } 0x6677 0x40)).flags = znhc 0b0101 := by decide
/-- C1v. -/
theorem test_cp_n8 :
    (after { start 0x0100 [0xFE, 0x90] with regs := { regs0 with a := 0x90 } }).regs.a = 0x90 ∧
    (after { start 0x0100 [0xFE, 0x90] with regs := { regs0 with a := 0x90 } }).flags = znhc 0b1100 := by decide
/-- C1v in reference mode: Z and N are exact. -/
theorem test_cp_reference :
    (after (drawing { start 0x0100 [0xFE, 0x90] with regs := { regs0 with a := 0x90 } })).regs.a = 0x90 ∧
    (after (drawing { start 0x0100 [0xFE, 0x90] with regs := { regs0 with a := 0x90 } })).flags.z = true ∧
    (after (drawing { start 0x0100 [0xFE, 0x90] with regs := { regs0 with a := 0x90 } })).flags.n = true ∧
    (after (drawing { start 0x0100 [0xFE, 0x90] with regs := { regs0 with a := 0x90 } })).draws = 2 := by decide
/-- X2: exact in both FLAG_MODEs. -/
theorem test_xor_a :
    (after (drawing { start 0x0100 [0xAF] with flags := znhc 0b0111 })).regs.a = 0x00 ∧
    (after (drawing { start 0x0100 [0xAF] with flags := znhc 0b0111 })).flags = znhc 0b1000 := by decide
/-- I3: C is unchanged. -/
theorem test_inc_r :
    (after { start 0x0100 [0x04] with regs := { regs0 with b := 0xFF }, flags := znhc 0b0101 }).regs.b = 0x00 ∧
    (after { start 0x0100 [0x04] with regs := { regs0 with b := 0xFF }, flags := znhc 0b0101 }).flags = znhc 0b1011 := by decide
/-- D3. -/
theorem test_dec_r :
    (after { start 0x0100 [0x0D] with regs := { regs0 with c := 0x10 } }).regs.c = 0x0F ∧
    (after { start 0x0100 [0x0D] with regs := { regs0 with c := 0x10 } }).flags = znhc 0b0110 := by decide
/-- D1. -/
theorem test_dec_r_zero :
    (after { start 0x0100 [0x05] with regs := { regs0 with b := 0x01 } }).regs.b = 0x00 ∧
    (after { start 0x0100 [0x05] with regs := { regs0 with b := 0x01 } }).flags = znhc 0b1100 := by decide
/-- W1: no flag is written. -/
theorem test_inc_rr :
    (after { start 0x0100 [0x03] with regs := { regs0 with b := 0x00, c := 0xFF }, flags := znhc 0b1111 }).regs.b = 0x01 ∧
    (after { start 0x0100 [0x03] with regs := { regs0 with b := 0x00, c := 0xFF }, flags := znhc 0b1111 }).regs.c = 0x00 ∧
    (after { start 0x0100 [0x03] with regs := { regs0 with b := 0x00, c := 0xFF }, flags := znhc 0b1111 }).flags = znhc 0b1111 := by decide
/-- W3: SP wraps in both EDGE_MODEs. -/
theorem test_inc_sp :
    (after (faulting { start 0x0100 [0x33] with sp := 0xFFFF })).sp = 0x0000 ∧
    (after (faulting { start 0x0100 [0x33] with sp := 0xFFFF })).status = .running := by decide
/-- W6. -/
theorem test_dec_rr :
    (after { start 0x0100 [0x1B] with regs := { regs0 with d := 0x01, e := 0x00 } }).regs.d = 0x00 ∧
    (after { start 0x0100 [0x1B] with regs := { regs0 with d := 0x01, e := 0x00 } }).regs.e = 0xFF := by decide
/-- S4: 18 FE is a self-loop. -/
theorem test_jr : (after (start 0x0100 [0x18, 0xFE])).pc = 0x0100 := by decide
/-- J9: nothing changes but the status. -/
theorem test_jr_edge :
    (recordOf (after (faulting (start 0x0000 [0x18, 0xFC])))).map (·.edgeValue) = some (some (-2)) ∧
    (after (faulting (start 0x0000 [0x18, 0xFC]))).pc = 0x0000 := by decide
/-- J4. -/
theorem test_jr_nz : (after (start 0x000A [0x20, 0xFB])).pc = 0x0007 := by decide
/-- J5. -/
theorem test_jr_nz_not_taken : (after { start 0x000A [0x20, 0xFB] with flags := znhc 0b1000 }).pc = 0x000C := by decide
/-- J6. -/
theorem test_jr_z : (after { start 0x004B [0x28, 0x08] with flags := znhc 0b1000 }).pc = 0x0055 := by decide
/-- J10: not taken, so the target is not computed. -/
theorem test_jr_z_not_taken :
    (after (faulting (start 0x0000 [0x28, 0xFC]))).pc = 0x0002 ∧
    (after (faulting (start 0x0000 [0x28, 0xFC]))).status = .running := by decide
/-- K3. -/
theorem test_call :
    (after { start 0x0028 [0xCD, 0x95, 0x00] with sp := 0xFFFE }).mem.byteAt 0xFFFE = 0x00 ∧
    (after { start 0x0028 [0xCD, 0x95, 0x00] with sp := 0xFFFE }).mem.byteAt 0xFFFD = 0x2B ∧
    (after { start 0x0028 [0xCD, 0x95, 0x00] with sp := 0xFFFE }).sp = 0xFFFC ∧
    (after { start 0x0028 [0xCD, 0x95, 0x00] with sp := 0xFFFE }).pc = 0x0095 := by decide
/-- K9. -/
theorem test_call_at_the_top :
    (after { start 0xFFFD [0xCD, 0x00, 0x00] with sp := 0xC000 }).mem.byteAt 0xC000 = 0x00 ∧
    (after { start 0xFFFD [0xCD, 0x00, 0x00] with sp := 0xC000 }).sp = 0xBFFE ∧
    (after { start 0xFFFD [0xCD, 0x00, 0x00] with sp := 0xC000 }).pc = 0x0000 := by decide
/-- K4. -/
theorem test_ret :
    (after (poke { start 0x0100 [0xC9] with sp := 0xFFFC } 0xFFFD 0x2B)).pc = 0x002B ∧
    (after (poke { start 0x0100 [0xC9] with sp := 0xFFFC } 0xFFFD 0x2B)).sp = 0xFFFE := by decide
/-- K5: the stack wraps at 0. -/
theorem test_push :
    (after { start 0x0100 [0xE5] with sp := 0x0001, regs := { regs0 with h := 0xAB, l := 0xCD } }).mem.byteAt 0x0001 = 0xAB ∧
    (after { start 0x0100 [0xE5] with sp := 0x0001, regs := { regs0 with h := 0xAB, l := 0xCD } }).mem.byteAt 0x0000 = 0xCD ∧
    (after { start 0x0100 [0xE5] with sp := 0x0001, regs := { regs0 with h := 0xAB, l := 0xCD } }).sp = 0xFFFF := by decide
/-- K6. -/
theorem test_push_edge :
    (recordOf (after (faulting { start 0x0100 [0xE5] with sp := 0x0001 }))).map (·.edgeValue) = some (some (-1)) ∧
    (after (faulting { start 0x0100 [0xE5] with sp := 0x0001 })).sp = 0x0001 ∧
    (after (faulting { start 0x0100 [0xE5] with sp := 0x0001 })).pc = 0x0100 := by decide
/-- K2. -/
theorem test_pop :
    (after (poke (poke { start 0x0100 [0xD1] with sp := 0xFFFC } 0xFFFD 0x34) 0xFFFE 0x12)).regs.d = 0x12 ∧
    (after (poke (poke { start 0x0100 [0xD1] with sp := 0xFFFC } 0xFFFD 0x34) 0xFFFE 0x12)).regs.e = 0x34 ∧
    (after (poke (poke { start 0x0100 [0xD1] with sp := 0xFFFC } 0xFFFD 0x34) 0xFFFE 0x12)).sp = 0xFFFE := by decide
/-- K7. -/
theorem test_pop_wrap :
    (after (poke (poke { start 0x0100 [0xC1] with sp := 0xFFFE } 0xFFFF 0x11) 0x0000 0x22)).regs.b = 0x22 ∧
    (after (poke (poke { start 0x0100 [0xC1] with sp := 0xFFFE } 0xFFFF 0x11) 0x0000 0x22)).regs.c = 0x11 ∧
    (after (poke (poke { start 0x0100 [0xC1] with sp := 0xFFFE } 0xFFFF 0x11) 0x0000 0x22)).sp = 0x0000 := by decide
/-- RT7: Z is cleared although the result is 0. -/
theorem test_rla :
    (after { start 0x0100 [0x17] with regs := { regs0 with a := 0x80 } }).regs.a = 0x00 ∧
    (after { start 0x0100 [0x17] with regs := { regs0 with a := 0x80 } }).flags = znhc 0b0001 := by decide
/-- RT9. -/
theorem test_rla_carry_in :
    (after { start 0x0100 [0x17] with regs := { regs0 with a := 0x80 }, flags := znhc 0b0001 }).regs.a = 0x01 ∧
    (after { start 0x0100 [0x17] with regs := { regs0 with a := 0x80 }, flags := znhc 0b0001 }).flags = znhc 0b0001 := by decide
/-- RT1. -/
theorem test_rl :
    (after { start 0x0100 [0xCB, 0x11] with regs := { regs0 with c := 0x80 } }).regs.c = 0x00 ∧
    (after { start 0x0100 [0xCB, 0x11] with regs := { regs0 with c := 0x80 } }).flags = znhc 0b1001 := by decide
/-- RT4. -/
theorem test_rl_carry_in :
    (after { start 0x0100 [0xCB, 0x17] with regs := { regs0 with a := 0x01 }, flags := znhc 0b0001 }).regs.a = 0x03 ∧
    (after { start 0x0100 [0xCB, 0x17] with regs := { regs0 with a := 0x01 }, flags := znhc 0b0001 }).flags = znhc 0b0000 := by decide
/-- B1. -/
theorem test_bit_set :
    (after { start 0x0100 [0xCB, 0x7C] with regs := { regs0 with h := 0x9F }, flags := znhc 0b0001 }).regs.h = 0x9F ∧
    (after { start 0x0100 [0xCB, 0x7C] with regs := { regs0 with h := 0x9F }, flags := znhc 0b0001 }).flags = znhc 0b0011 := by decide
/-- B2. -/
theorem test_bit_clear :
    (after { start 0x0100 [0xCB, 0x7C] with regs := { regs0 with h := 0x7F } }).flags = znhc 0b1010 := by decide

/-! ## Decode faults and the record -/

/-- F1. -/
theorem test_fault_primary :
    (recordOf (after (start 0x0150 [0x00]))).map (fun r => (r.kind, r.prefixed, r.opcode, r.address)) = some (.unsupportedOpcode, false, 0x00, 0x0150) := by decide
/-- F2. -/
theorem test_fault_cb :
    (recordOf (after (start 0x0200 [0xCB, 0x37]))).map (fun r => (r.kind, r.prefixed, r.opcode, r.address)) = some (.unsupportedOpcode, true, 0x37, 0x0200) := by decide
/-- F3. -/
theorem test_fault_cb_cb :
    (recordOf (after (start 0x0200 [0xCB, 0xCB]))).map (fun r => (r.prefixed, r.opcode)) = some (true, 0xCB) := by decide
/-- F7. -/
theorem test_fault_operand :
    (recordOf (after (faulting (start 0xFFFF [0x3E])))).map (fun r => (r.kind, r.edgeValue, r.address)) = some (.edgeFault, some 0x10000, 0xFFFF) := by decide
/-- F8. -/
theorem test_operand_wraps :
    (after (start 0xFFFF [0x3E, 0x31])).regs.a = 0x31 ∧
    (after (start 0xFFFF [0x3E, 0x31])).pc = 0x0001 := by decide
/-- F9: before any operand check. -/
theorem test_unsupported_at_the_top :
    (recordOf (after (faulting (start 0xFFFF [0x00])))).map (·.kind) = some .unsupportedOpcode := by decide
/-- F10: the window is centred on the address. -/
theorem test_fault_window :
    (recordOf (after (poke (poke (poke (start 0x0150 [0x00]) 0x0140 0xA0) 0x014F 0xAF) 0x0151 0xB1))).map (fun r => (r.window.length, r.window[0]?, r.window[15]?, r.window[17]?)) = some (32, some 0xA0, some 0xAF, some 0xB1) := by decide
/-- R244: no step follows a fault. -/
theorem test_stopped :
    step (after (start 0x0150 [0x00])) = .fault (.halted (State.faultRecord (start 0x0150 [0x00]) (.unsupportedOpcode false 0x00))) := rfl

/-! ## Graphics and load -/

/-- Row 0 of the tile of vector G1. -/
def tileG1 : Memory := Memory.placeAt [] 0x8000 [0x3C, 0x7E]

/-- G1. -/
theorem test_tile_g1 :
    (List.range 8).map (fun c => (colorIndex (tileG1.byteAt 0x8000) (tileG1.byteAt 0x8001) (7 - c)).toNat) = [0, 2, 3, 3, 3, 3, 2, 0] := by decide
/-- S5. -/
theorem test_tile_plane0 : (decodeTile (Memory.placeAt [] 0x8000 [0xFF, 0x00]) 0x8000)[3][0] = 1 := by decide
/-- G3: map cell (5, 3) is 0x02 and row 4 of its tile is 80 80. -/
theorem test_compose_g3 :
    (tileIndex (Memory.placeAt (Memory.placeAt [] 0x9865 [0x02]) 0x8028 [0x80, 0x80]) 5 3) = 2 ∧
    (tileOf (Memory.placeAt (Memory.placeAt [] 0x9865 [0x02]) 0x8028 [0x80, 0x80]) 2)[0][4] = 3 := by decide
/-- T1. -/
theorem test_tick_first : (tick State.reset).2.isSome = true ∧ (tick State.reset).1.lastScy = some 0 := by decide
/-- T2: SCX alone renders nothing. -/
theorem test_tick_scx : (tick { poke State.reset 0xFF43 5 with lastScy := some 0 }).2.isSome = false := by decide
/-- T3. -/
theorem test_tick_scy :
    (tick { poke State.reset 0xFF42 1 with lastScy := some 0 }).2.isSome = true ∧
    (tick { poke State.reset 0xFF42 1 with lastScy := some 0 }).1.lastScy = some 1 := by decide

/-- The parameters State.reset fixes. -/
def standardLoad : LoadParams where
  cfg := Config.standard
  regs0 := State.reset.regs
  flags0 := State.reset.flags
  sp0 := 0
  mem0 := []
  lastScyInit := none

/-- The machine of two empty images is State.reset. -/
theorem test_load_reset : load standardLoad (some []) (some []) = .ready State.reset := by decide
/-- R245. -/
theorem test_load_missing :
    load standardLoad none (some []) = .failed { kind := .loadFailure } ∧
    load standardLoad (some []) none = .failed { kind := .loadFailure } := by decide
/-- P-L1 and P-L2: a cartridge below 0x101 bytes contributes nothing. -/
theorem test_load_boot : placeImages [] [0x31, 0xFE, 0xFF] [0x11, 0x22] = [(0, 0x31), (1, 0xFE), (2, 0xFF)] := by decide
theorem test_invariant_reset : State.reset.inv = true ∧ State.reset.mem.wf = true := by decide

/-! ## Witnesses: the hypotheses of every statement can be met, at the ends of their ranges -/

/-- At the last address an instruction of 1, 2 or 3 bytes fits in EDGE_MODE = fault, and at the last address of all in wrap. -/
abbrev FitsAtEnds (len : Nat) : Prop :=
  PcFits (faulting (start (BitVec.ofNat 16 (0xFFFF - len)) [])) len ∧ ¬ PcFits (faulting (start (BitVec.ofNat 16 (0x10000 - len)) [])) len ∧
    PcFits (start 0xFFFF []) len

theorem witness_LoadImmediateByte : FitsAtEnds 2 := by decide
theorem witness_LoadImmediateWord : FitsAtEnds 3 := by decide
theorem witness_MoveRegister : FitsAtEnds 1 := by decide
theorem witness_LoadFromHL : FitsAtEnds 1 := by decide
theorem witness_StoreToHL : FitsAtEnds 1 := by decide
theorem witness_StoreAccumulatorThroughPair : FitsAtEnds 1 := by decide
theorem witness_LoadAccumulatorThroughPair : FitsAtEnds 1 := by decide
theorem witness_StoreAccumulatorAndStepHL : FitsAtEnds 1 := by decide
theorem witness_HighPageStores : FitsAtEnds 1 ∧ FitsAtEnds 2 := by decide
theorem witness_HighPageLoads : FitsAtEnds 1 ∧ FitsAtEnds 2 := by decide
theorem witness_AbsoluteMoves : FitsAtEnds 3 := by decide
theorem witness_AddToAccumulator : FitsAtEnds 1 ∧ FitsAtEnds 2 := by decide
theorem witness_SubtractFromAccumulator : FitsAtEnds 1 ∧ FitsAtEnds 2 := by decide
theorem witness_CompareWithAccumulator : FitsAtEnds 1 ∧ FitsAtEnds 2 := by decide
theorem witness_IncrementDecrementRegister : FitsAtEnds 1 := by decide
theorem witness_IncrementDecrementPair : FitsAtEnds 1 := by decide
theorem witness_RotateLeftThroughCarry : FitsAtEnds 1 ∧ FitsAtEnds 2 := by decide
theorem witness_TestBitSetsZero : FitsAtEnds 2 := by decide
theorem witness_XorAClearsAccumulator :
    FitsAtEnds 1 ∧
    ((0xA8 ≤ 0xA8 ∧
    0xA8 ≤ 0xAE) ∨ 0xA8 = 0xEE) ∧
    ((0xA8 ≤ 0xEE ∧
    0xEE ≤ 0xAE) ∨ 0xEE = 0xEE) := by decide
theorem witness_DecodeOfEncodeIsTheInstruction :
    WellFormed (.jr 127) ∧
    WellFormed (.jr (-128)) ∧
    WellFormed .bit7_A := by decide
theorem witness_DecodedBytesAreTheEncoding : decode [0x18, 0x80, 0x55] = .ok (.jr (-128), [0x55]) := rfl

/-- A step that completes, in wrap at 0xFFFF and in fault at 0xFFFD. -/
theorem witness_StepRuns_completes :
    (start 0xFFFF [0x3E, 0x31]).Running ∧ decode (start 0xFFFF [0x3E, 0x31]).bytesAtPc = .ok (.ldA_n8 0x31, [0x00]) ∧
    BytesFit (start 0xFFFF [0x3E, 0x31]) 2 ∧ (after (start 0xFFFF [0x3E, 0x31])).Running ∧
    BytesFit (faulting (start 0xFFFD [0x3E, 0x31])) 2 ∧ (after (faulting (start 0xFFFD [0x3E, 0x31]))).Running :=
  ⟨rfl, rfl, by decide, by decide, by decide, by decide⟩
/-- A step that faults: the bytes fit at 0xFFFE and PC_next does not. -/
theorem witness_StepRuns_faults :
    (faulting (start 0xFFFE [0x3E, 0x31])).Running ∧
    decode (faulting (start 0xFFFE [0x3E, 0x31])).bytesAtPc = .ok (.ldA_n8 0x31, [0x00]) ∧
    BytesFit (faulting (start 0xFFFE [0x3E, 0x31])) 2 ∧
    (recordOf (after (faulting (start 0xFFFE [0x3E, 0x31])))).isSome = true := ⟨rfl, rfl, by decide, by decide⟩
theorem witness_UnsupportedOpcodeFaults :
    (start 0x0150 [0x00]).Running ∧ ((start 0x0150 [0x00]).memRead 0x0150).toNat ∈ unsupportedPrimary ∧
    (0xFF : Byte).toNat ∈ unsupportedPrimary ∧
    (faulting (start 0xFFFE [0xCB, 0x37])).memRead 0xFFFE = 0xCB ∧ BytesFit (faulting (start 0xFFFE [0xCB, 0x37])) 2 := by
  decide
theorem witness_UnsupportedOpcodeFaults_cb :
    ¬ admittedCB 0x37 ∧ ¬ admittedCB 0x16 ∧ ¬ admittedCB 0x46 ∧ ¬ admittedCB 0x80 ∧ admittedCB 0x10 ∧ admittedCB 0x17 ∧
      admittedCB 0x40 ∧ admittedCB 0x7F := by
  unfold admittedCB
  decide
theorem witness_EdgeFaults_prefix :
    (faulting (start 0xFFFF [0xCB])).Running ∧ (faulting (start 0xFFFF [0xCB])).cfg.edgeMode = .fault ∧
    (faulting (start 0xFFFF [0xCB])).memRead 0xFFFF = 0xCB := by decide
/-- An operand byte beyond the top, and PC_next alone beyond the top. -/
theorem witness_EdgeFaults_operand :
    decode (faulting (start 0xFFFF [0x3E, 0x31])).bytesAtPc = .ok (.ldA_n8 0x31, [0x00]) ∧ 0xFFFF < 0xFFFF + 2 ∧
    decode (faulting (start 0xFFFF [0x17])).bytesAtPc = .ok (.rla, [0x00, 0x00]) ∧
    0xFFFF < (faulting (start 0xFFFF [0x17])).pc.toNat + Instr.length .rla := ⟨rfl, by decide, rfl, by decide⟩
theorem witness_FaultedMachineStops : (recordOf (after (start 0x0150 [0x00]))).isSome = true := by decide
theorem witness_FaultsArePrecise :
    (match systemStep (start 0x0150 [0x00]) with
      | .next (t, _) => (recordOf t).isSome
      | .fault _ => false
      | .refused _ => false) = true := by decide
theorem witness_FaultRecordFields :
    ((start 0x0150 []).takeFault (.unsupportedOpcode true 0x37)).status =
      .faulted ((start 0x0150 []).faultRecord (.unsupportedOpcode true 0x37)) ∧
    ((start 0x0150 []).takeFault (.edgeFault (-1))).status = .faulted ((start 0x0150 []).faultRecord (.edgeFault (-1))) ∧
    31 < (start 0x0150 []).cfg.dumpWindow ∧ ¬ 32 < (start 0x0150 []).cfg.dumpWindow := by decide
theorem witness_WrapModeTakesNoEdgeFault :
    (start 0xFFFF [0xCB, 0x00]).Running ∧ (start 0xFFFF [0xCB, 0x00]).cfg.edgeMode = .wrap ∧
    (recordOf (after (start 0xFFFF [0xCB, 0x00]))).isSome = true := by decide
/-- A step that completes and one that faults, both from states that meet the invariant. -/
theorem witness_StepKeepsInvariant :
    (start 0x0100 [0x77]).Inv ∧ (after (start 0x0100 [0x77])).Running ∧
    (start 0x0100 [0xD3]).Inv ∧ (recordOf (after (start 0x0100 [0xD3]))).isSome = true := by decide
theorem witness_RunningMachineAlwaysSteps : State.reset.Running := by decide
/-- A step that draws and one that does not. -/
theorem witness_StepsKeepTheParameters :
    step (start 0x0100 [0x3C]) = .next (after (start 0x0100 [0x3C])) ∧ (start 0x0100 [0x3C]).cfg.flagMode = .hardware ∧
    (after (drawing (start 0x0100 [0x3C]))).draws = 2 := by
  exact ⟨rfl, rfl, rfl⟩
/-- A step with a frame (SCY written) and one without. -/
theorem witness_FramesFollowScy :
    (after { start 0x0100 [0xE0, 0x42] with lastScy := some 0 }).Running ∧
    (after { start 0x0100 [0xE0, 0x42] with lastScy := some 0 }).lastScy = some 0x11 ∧
    (after { start 0x0100 [0x7F] with lastScy := some 0 }).lastScy = some 0 := by decide
theorem witness_ReferenceModeDrawsHAndC :
    Form.flagRow (Instr.form .cpAtHL) = .arith ∧ Form.flagRow (Instr.form .incB) = .step ∧ FitsAtEnds 1 := by decide
theorem witness_OtherInstructionsIgnoreFlagMode :
    Form.flagRow (Instr.form .rla) ≠ .arith ∧ Form.flagRow (Instr.form .rla) ≠ .step ∧
    ∃ t, exec .rla (withFlagMode (start 0x0100 []) .hardware) = .next t := ⟨by decide, by decide, _, rfl⟩
/-- The last target inside the space, the first one outside, at both ends. -/
theorem witness_JumpRelative :
    FitsAtEnds 2 ∧ TargetFits (faulting (start 0xFFF0 [])) 13 ∧ ¬ TargetFits (faulting (start 0xFFF0 [])) 14 ∧
    TargetFits (faulting (start 0x0000 [])) (-2) ∧ ¬ TargetFits (faulting (start 0x0000 [])) (-3) ∧
    TargetFits (start 0x0000 []) (-3) := by decide
theorem witness_JumpRelativeOnZero :
    (start 0x0000 []).flags.z = false ∧ { start 0x0000 [] with flags := znhc 0b1000 }.flags.z = true ∧
    PcFits (faulting (start 0x0000 [])) 2 ∧ ¬ TargetFits (faulting (start 0x0000 [])) (-3) := by decide
/-- SP 2 and 1 for a push, 0xFFFD and 0xFFFE for a pop. -/
theorem witness_StackDiscipline :
    PushFits (faulting { start 0 [] with sp := 2 }) ∧ ¬ PushFits (faulting { start 0 [] with sp := 1 }) ∧
    PushFits { start 0 [] with sp := 0 } ∧ PopFits (faulting { start 0 [] with sp := 0xFFFD }) ∧
    ¬ PopFits (faulting { start 0 [] with sp := 0xFFFE }) ∧ PopFits { start 0 [] with sp := 0xFFFF } := by decide
theorem witness_CallPushesReturnAddress :
    PcFits (faulting { start 0xFFFC [] with sp := 2 }) 3 ∧ PushFits (faulting { start 0xFFFC [] with sp := 2 }) := by decide
theorem witness_ReturnPopsPc :
    PcFits (faulting { start 0xFFFE [] with sp := 0xFFFD }) 1 ∧ PopFits (faulting { start 0xFFFE [] with sp := 0xFFFD }) ∧
    ¬ PopFits (faulting { start 0xFFFE [] with sp := 0xFFFE }) := by decide
theorem witness_PushAndPopPair :
    PcFits (faulting { start 0xFFFE [] with sp := 2 }) 1 ∧ PushFits (faulting { start 0xFFFE [] with sp := 2 }) ∧
    PopFits (faulting { start 0xFFFE [] with sp := 2 }) := by decide
theorem witness_StackEdgeFaults :
    (faulting { start 0xFFFC [] with sp := 1 }).cfg.edgeMode = .fault ∧ (1 : Word).toNat < 2 ∧
    PcFits (faulting { start 0xFFFC [] with sp := 1 }) 3 ∧ 0xFFFE ≤ (0xFFFE : Word).toNat := by decide
theorem witness_PopUndoesPush :
    PushFits (faulting { start 0x0100 [] with sp := 2 }) ∧ (2 : Word) ≠ 0xFF44 ∧ (2 : Word) - 1 ≠ 0xFF44 ∧
    PcFits (faulting { start 0x0100 [] with sp := 2 }) 3 ∧ (0xFFFE : Word).toNat + 1 ≤ 0xFFFF := by decide
/-- A store, seen at the byte stored to and at the byte beside it. -/
theorem witness_MemoryFrame_store :
    (after (start 0x0100 [0x70])).mem.byteAt 0x6677 = 0x22 ∧ (after (start 0x0100 [0x70])).mem.byteAt 0x6678 = 0 := by
  decide
theorem witness_MemoryFrame :
    (∃ t, exec .ldAtHL_B (start 0x0100 []) = .next t) ∧
    Form.storeAddresses (Instr.form .ldAtHL_B) (start 0x0100 []) = [0x6677] := ⟨⟨_, rfl⟩, by decide⟩
theorem witness_RegisterFrame :
    (∃ t, exec .popBC (start 0x0100 []) = .next t) ∧ Reg.a ∉ Form.destRegs (Instr.form .popBC) ∧
    Form.writesSp (Instr.form .ldAtHL_B) = false := ⟨⟨_, rfl⟩, by decide, by decide⟩
theorem witness_FlagFrame :
    (∃ t, exec .incB (start 0x0100 []) = .next t) ∧ Form.flagRow (Instr.form .popBC) = .none ∧
    Form.flagRow (Instr.form .bit0_A) = .test ∧ Form.flagRow (Instr.form .incB) = .step ∧
    (start 0x0100 []).cfg.flagMode = .hardware := ⟨⟨_, rfl⟩, by decide, by decide, by decide, by decide⟩
theorem witness_HiddenStateFrame :
    (∃ t, exec .incB (drawing (start 0x0100 [])) = .next t ∧ t.draws = 2) ∧
    ∃ t, exec .ret (faulting { start 0x0100 [] with sp := 0xFFFF }) = .next t ∧ (recordOf t).isSome = true :=
  ⟨⟨_, rfl, rfl⟩, _, rfl, by decide⟩
theorem witness_NoInstructionReadsNOrH :
    (start 0x0100 []).Running ∧ ∃ t, exec .incB (start 0x0100 []) = .next t ∧ t.Running := ⟨by decide, _, rfl, by decide⟩
theorem witness_TileDecoderPixels : 7 < 8 := by decide
theorem witness_BackgroundClosedForm : 255 < 256 ∧ 0x9800 + 32 * (255 / 8) + 255 / 8 = 0x9BFF := by decide
theorem witness_ViewportWrapsOnBothAxes :
    159 < 160 ∧ 143 < 144 ∧ (0xFF + 159) % 256 = 158 ∧ (tick State.reset).2.isSome = true := by decide
theorem witness_TickRendersWhenScyChanges :
    { State.reset with lastScy := some 0 }.lastScy = some ({ State.reset with lastScy := some 0 }.mem.byteAt 0xFF42) ∧
    State.reset.lastScy ≠ some (State.reset.mem.byteAt 0xFF42) := by decide
/-- Two machines that differ in a register and in a byte the pipeline never reads. -/
theorem witness_GraphicsReadOnlyTheirCells :
    poke (start 0x0100 []) 0x9000 0x55 ≠ State.reset ∧ (poke (start 0x0100 []) 0x9000 0x55).lastScy = State.reset.lastScy ∧
    ∀ k : Nat, (0x8000 ≤ k ∧ k ≤ 0x8FFF) ∨ (0x9800 ≤ k ∧ k ≤ 0x9BFF) ∨ k = 0xFF42 ∨ k = 0xFF43 →
      (poke (start 0x0100 []) 0x9000 0x55).mem.byteAt k = State.reset.mem.byteAt k := by
  refine ⟨by decide, by decide, fun k hk => ?_⟩
  show Memory.byteAt [(0x9000, 0x55)] k = Memory.byteAt [] k
  have hne : ¬ 0x9000 = k := by omega
  simp [Memory.byteAt, hne]
/-- Images of the greatest length that fits, and one byte longer. -/
theorem witness_LoadPlacesTheImages :
    (List.replicate 0x10000 (0 : Byte)).length ≤ 0x10000 ∧ 0x10000 < (List.replicate 0x10001 (0 : Byte)).length :=
  ⟨Nat.le_of_eq List.length_replicate, Nat.lt_of_lt_of_eq (Nat.lt_succ_self 0x10000) List.length_replicate.symm⟩

end Sys2Proof.Tests
end

