-- ==== Sys2Proof/Proofs/Parameters.lean ====
section
/-! SUPPORT. What an instruction leaves of the state no instruction names (last_scy, the status, the parameters), how many draws
it takes, and O14: the same for the step. -/

namespace Sys2Proof.Machine

/-! ## Draws (41_alu.md R146) -/

/-- How many draws writing the flags takes: two, for H and C, and only in reference mode. -/
def flagDraws (m : FlagMode) : Nat := if m = .reference then 2 else 0

/-- How many draws the effect of a form takes: those of its flags, if it is in a row of R32 whose H and C are drawn. -/
def formDraws (f : Form) (m : FlagMode) : Nat := if f.flagRow = .arith ∨ f.flagRow = .step then flagDraws m else 0

@[simp] theorem State.writeFlags_draws (s : State) (f : Flags) :
    (s.writeFlags f).draws = s.draws + flagDraws s.cfg.flagMode := by
  cases h : s.cfg.flagMode <;> simp [h, flagDraws]

theorem formDraws_hardware (f : Form) : formDraws f .hardware = 0 := by
  simp [formDraws, flagDraws]

theorem formDraws_cases (f : Form) (m : FlagMode) : formDraws f m = 0 ∨ formDraws f m = 2 := by
  unfold formDraws flagDraws
  split
  · cases m
    · exact .inl rfl
    · exact .inr rfl
  · exact .inl rfl

/-! ## The shared operations -/

/-- A push changes memory and SP alone. -/
theorem push16_frame {v : Word} {s t : State} (h : push16 v s = .ok t) :
    t.lastScy = s.lastScy ∧ t.status = s.status ∧ t.cfg = s.cfg ∧ t.draws = s.draws := by
  rcases push16_cases v s with ⟨_, e⟩ | ⟨_, _, e⟩ <;> rw [e] at h <;> cases h
  simp

/-- A pop changes SP alone. -/
theorem pop16_frame {v : Word} {s t : State} (h : pop16 s = .ok (v, t)) : t = { s with sp := s.sp + 2 } := by
  rcases pop16_cases s with ⟨_, e⟩ | ⟨_, _, e⟩ <;> rw [e] at h <;> cases h
  rfl

/-- A jump changes PC alone. -/
theorem jumpEffect_frame {taken : Bool} {e : Int} {s t : State} (h : formEffect.jumpEffect taken e s = .ok t) :
    t = { s with pc := t.pc } := by
  unfold formEffect.jumpEffect at h
  split at h
  · split at h <;> cases h
    rfl
  · cases h
    rfl

/-! ## One instruction -/

/-- No effect changes last_scy, the status or the parameters, and the draw counter goes up by the form's draws. -/
theorem formEffect_hidden {f : Form} {s t : State} (h : formEffect f s = .ok t) :
    t.lastScy = s.lastScy ∧ t.status = s.status ∧ t.cfg = s.cfg ∧ t.draws = s.draws + formDraws f s.cfg.flagMode := by
  cases f
  case jr | jrNZ | jrZ =>
    rw [jumpEffect_frame h]
    exact ⟨rfl, rfl, rfl, rfl⟩
  case pushPair => exact push16_frame h
  case call =>
    simp only [formEffect] at h
    split at h <;> cases h
    rename_i hpush
    have hframe := push16_frame hpush
    exact hframe
  case ret | popPair =>
    simp only [formEffect] at h
    split at h <;> cases h
    rename_i hpop
    rw [pop16_frame hpop]
    exact ⟨rfl, rfl, rfl, rfl⟩
  all_goals
    cases h
    simp [formDraws, Form.flagRow]

/-- Executing an instruction keeps the parameters. -/
theorem exec_cfg {i : Instr} {s t : State} (h : exec i s = .next t) : t.cfg = s.cfg := by
  rcases exec_cases i s t h with ⟨_, he⟩ | ⟨_, _, rfl⟩
  · obtain ⟨_, _, hcfg, _⟩ := formEffect_hidden he
    exact hcfg
  · rfl

/-- Executing an instruction takes its form's draws, or none when it faults. -/
theorem exec_draws {i : Instr} {s t : State} (h : exec i s = .next t) :
    t.draws = s.draws ∨ t.draws = s.draws + formDraws i.form s.cfg.flagMode := by
  rcases exec_cases i s t h with ⟨_, he⟩ | ⟨_, _, rfl⟩
  · obtain ⟨_, _, _, hdraws⟩ := formEffect_hidden he
    exact .inr hdraws
  · exact .inl rfl

/-! ## One step -/

/-- The driver's half of a step writes last_scy at most. -/
theorem afterStep_state (t : State) : (afterStep t).1 = { t with lastScy := (afterStep t).1.lastScy } := by
  unfold afterStep
  split
  · simp only [tick_state]
  · rfl

/-- A step's next state is the system step's. -/
theorem systemStep_of_step {s t : State} (h : step s = .next t) : ∃ o, systemStep s = .next (t, o) := by
  unfold step at h
  split at h <;> cases h
  exact ⟨_, by assumption⟩

/-- Every next state of a step is, but for last_scy, the state with an exception of the fetch taken or the state an instruction
answers. -/
theorem step_cases {s t : State} (h : step s = .next t) :
    (∃ x, t = { s.takeFault x with lastScy := t.lastScy }) ∨
    (∃ i u, exec i s = .next u ∧ t = { u with lastScy := t.lastScy }) := by
  obtain ⟨o, ho⟩ := systemStep_of_step h
  obtain ⟨_, ⟨x, _, ht⟩ | ⟨i, u, _, hu, ht⟩⟩ := systemStep_cases ho <;> obtain rfl := congrArg Prod.fst ht
  · exact .inl ⟨x, afterStep_state _⟩
  · exact .inr ⟨i, u, hu, afterStep_state _⟩

/-- Settles O14: an exception of the fetch touches neither the parameters nor the draws, and an instruction keeps the parameters
and takes its form's draws or none. -/
theorem stepsKeepTheParameters : Obligations.StepsKeepTheParameters := by
  intro s t h
  rcases step_cases h with ⟨x, ht⟩ | ⟨i, u, hu, ht⟩ <;> rw [ht]
  · exact ⟨rfl, fun _ => rfl, .inl rfl⟩
  · have hcfg := exec_cfg hu
    have hdraws := exec_draws hu
    refine ⟨hcfg, fun hm => ?_, ?_⟩
    · simpa [hm, formDraws_hardware] using hdraws
    · rcases hdraws with hd | hd
      · exact .inl hd
      · rcases formDraws_cases i.form s.cfg.flagMode with hf | hf <;> simp [hd, hf]

end Sys2Proof.Machine
end

