-- ==== Sys2Proof/Proofs/RegisterAndFlagFrames.lean ====
section
/-! SUPPORT. What the shared operations leave of the registers, SP and the flags, and O47 to O49: the same for every instruction,
by its form (10_state.md R24, R32, R38 to R40). -/

namespace Sys2Proof.Machine

/-! ## The shared operations -/

/-- A push touches neither the register file nor the flags. -/
theorem push16_regs_flags {v : Word} {s t : State} (h : push16 v s = .ok t) : t.regs = s.regs ∧ t.flags = s.flags := by
  rcases push16_cases v s with ⟨_, e⟩ | ⟨_, _, e⟩ <;> rw [e] at h <;> cases h
  simp

/-- A pair's registers are its two halves. -/
theorem RegPair.regs_eq (p : RegPair) : p.regs = [pairHi p, pairLo p] := by
  cases p <;> rfl

/-- A write of a pair leaves every register outside it. -/
theorem Regs.get_setPair_of_notMem {p : RegPair} {r : Reg} (hr : r ∉ p.regs) (g : Regs) (v : Word) :
    (g.setPair p v).get r = g.get r := by
  simp only [RegPair.regs_eq, List.mem_cons, List.not_mem_nil, or_false, not_or] at hr
  obtain ⟨hhi, hlo⟩ := hr
  exact Regs.get_setPair g p v r hhi hlo

/-- A write of a 16-bit operand leaves every register outside it. -/
theorem State.setLoadPair_get {p : LoadPair} {r : Reg} (hr : r ∉ p.regs) (s : State) (v : Word) :
    (s.setLoadPair p v).regs.get r = s.regs.get r := by
  cases p
  case bc => exact Regs.get_setPair_of_notMem (p := .bc) hr s.regs v
  case de => exact Regs.get_setPair_of_notMem (p := .de) hr s.regs v
  case hl => exact Regs.get_setPair_of_notMem (p := .hl) hr s.regs v
  case sp => rfl

/-- A write of a 16-bit operand other than SP leaves SP. -/
theorem State.setLoadPair_sp {p : LoadPair} (hp : p.isSp = false) (s : State) (v : Word) :
    (s.setLoadPair p v).sp = s.sp := by
  cases p
  case sp => cases hp
  all_goals rfl

/-! ## The stack instructions, inverted -/

/-- A CALL that completes is its push, with PC moved to the target. -/
theorem formEffect_call {a : Word} {s t : State} (h : formEffect (.call a) s = .ok t) :
    ∃ u, push16 s.pc s = .ok u ∧ t = { u with pc := a } := by
  simp only [formEffect] at h
  split at h <;> cases h
  exact ⟨_, by assumption, rfl⟩

/-- A RET that completes moves SP and PC alone. -/
theorem formEffect_ret {s t : State} (h : formEffect .ret s = .ok t) :
    ∃ v, t = { s with sp := s.sp + 2, pc := v } := by
  simp only [formEffect] at h
  split at h <;> cases h
  rename_i v u hpop
  exact ⟨v, by rw [pop16_frame hpop]⟩

/-- A POP that completes moves SP and writes its pair. -/
theorem formEffect_popPair {p : RegPair} {s t : State} (h : formEffect (.popPair p) s = .ok t) :
    ∃ v, t = { s with sp := s.sp + 2 }.setPair p v := by
  simp only [formEffect] at h
  split at h <;> cases h
  rename_i v u hpop
  exact ⟨v, by rw [pop16_frame hpop]⟩

/-! ## One effect -/

/-- No effect writes a register outside its form's destinations (10_state.md R24). -/
theorem formEffect_regs {f : Form} {s t : State} (h : formEffect f s = .ok t) {r : Reg} (hr : r ∉ f.destRegs) :
    t.regs.get r = s.regs.get r := by
  cases f
  case jr | jrNZ | jrZ => rw [jumpEffect_frame h]
  case call =>
    obtain ⟨u, hpush, rfl⟩ := formEffect_call h
    exact congrArg (Regs.get · r) (push16_regs_flags hpush).1
  case ret =>
    obtain ⟨v, rfl⟩ := formEffect_ret h
    rfl
  case pushPair => rw [(push16_regs_flags h).1]
  case popPair =>
    obtain ⟨v, rfl⟩ := formEffect_popPair h
    exact Regs.get_setPair_of_notMem hr _ _
  case ldPair_n16 | incPair | decPair =>
    cases h
    exact State.setLoadPair_get hr _ _
  case ldAtHLinc_A | ldAtHLdec_A =>
    cases h
    rw [State.setPair_regs, State.memWrite_regs]
    exact Regs.get_setPair_of_notMem hr _ _
  case ldAtHL_reg | ldAtBC_A | ldAtDE_A | ldhAtN8_A | ldAtC_A | ldAtA16_A | cpReg | cpAtHL | cpN8 | bitReg =>
    cases h
    simp
  all_goals
    have hne := List.ne_of_not_mem_cons hr
    cases h
    simp [Regs.get_set, hne]

/-- No effect moves SP unless its form writes it (10_state.md R24). -/
theorem formEffect_sp {f : Form} {s t : State} (h : formEffect f s = .ok t) (hf : f.writesSp = false) : t.sp = s.sp := by
  cases f
  case jr | jrNZ | jrZ => rw [jumpEffect_frame h]
  case call | ret | pushPair | popPair => cases hf
  case ldPair_n16 | incPair | decPair =>
    cases h
    exact State.setLoadPair_sp hf _ _
  all_goals
    cases h
    simp

/-- The forms with no flag in their row of the table leave all four (10_state.md R32). -/
theorem formEffect_flags {f : Form} {s t : State} (h : formEffect f s = .ok t) (hf : f.flagRow = .none) :
    t.flags = s.flags := by
  cases f
  case jr | jrNZ | jrZ => rw [jumpEffect_frame h]
  case call =>
    obtain ⟨u, hpush, rfl⟩ := formEffect_call h
    exact (push16_regs_flags hpush).2
  case ret =>
    obtain ⟨v, rfl⟩ := formEffect_ret h
    rfl
  case pushPair => exact (push16_regs_flags h).2
  case popPair =>
    obtain ⟨v, rfl⟩ := formEffect_popPair h
    rfl
  case addA_reg | addA_atHL | addA_n8 | subReg | subAtHL | subN8 | cpReg | cpAtHL | cpN8 | xorA | incReg | decReg | rla |
      rlReg | bitReg => cases hf
  all_goals
    cases h
    simp

/-- BIT leaves C, and so do INC r and DEC r when the flags are the computed ones (10_state.md R32, 41_alu.md R144, R145). -/
theorem formEffect_carry {f : Form} {s t : State} (h : formEffect f s = .ok t)
    (hf : f.flagRow = .test ∨ (f.flagRow = .step ∧ s.cfg.flagMode = .hardware)) : t.flags.c = s.flags.c := by
  cases f
  case bitReg =>
    cases h
    rfl
  case incReg | decReg =>
    have hm : s.cfg.flagMode = .hardware := by simpa [Form.flagRow] using hf
    cases h
    rw [State.writeFlags_hardware (s.setReg _ _) _ hm]
    rfl
  all_goals simp [Form.flagRow] at hf

/-- No draw is taken unless H and C are drawn: in reference mode, by a form whose row of R32 has them drawn. -/
theorem formDraws_eq_zero_or (f : Form) (m : FlagMode) :
    formDraws f m = 0 ∨ (m = .reference ∧ (f.flagRow = .arith ∨ f.flagRow = .step)) := by
  cases m
  · exact .inl (formDraws_hardware f)
  · by_cases hf : f.flagRow = .arith ∨ f.flagRow = .step
    · exact .inr ⟨rfl, hf⟩
    · exact .inl (if_neg hf)

/-! ## One instruction -/

/-- Settles O47: a fault leaves the registers, and an effect leaves what its form does not name. -/
theorem registerFrame : Obligations.RegisterFrame := by
  intro i s t h
  rcases exec_cases i s t h with ⟨_, he⟩ | ⟨_, _, rfl⟩
  · have hsp := formEffect_sp he
    exact ⟨fun _ hr => formEffect_regs he hr, hsp⟩
  · exact ⟨fun _ _ => rfl, fun _ => rfl⟩

/-- Settles O48: a fault leaves the flags, and an effect leaves what its row of R32 leaves. -/
theorem flagFrame : Obligations.FlagFrame := by
  intro i s t h
  rcases exec_cases i s t h with ⟨_, he⟩ | ⟨_, _, rfl⟩
  · have hflags := formEffect_flags he
    have hcarry := formEffect_carry he
    exact ⟨hflags, fun hf => hcarry (.inl hf), fun hf hm => hcarry (.inr ⟨hf, hm⟩)⟩
  · exact ⟨fun _ => rfl, fun _ => rfl, fun _ _ => rfl⟩

/-- Settles O49: a fault changes the status alone, and an effect changes none of the four but the draw counter, by its form's
draws. -/
theorem hiddenStateFrame : Obligations.HiddenStateFrame := by
  intro i s t h
  rcases exec_cases i s t h with ⟨_, he⟩ | ⟨_, v, rfl⟩
  · obtain ⟨hscy, hstatus, hcfg, hdraws⟩ := formEffect_hidden he
    refine ⟨hscy, hcfg, .inl hstatus, ?_⟩
    rcases formDraws_eq_zero_or i.form s.cfg.flagMode with h0 | hdrawn
    · exact .inl (by simpa [h0] using hdraws)
    · exact .inr hdrawn
  · exact ⟨rfl, rfl, .inr ⟨v, rfl⟩, .inl rfl⟩

end Sys2Proof.Machine
end

