-- ==== Sys2Proof/Proofs/UnreadFlags.lean ====
section
/-! SUPPORT. No instruction reads N or H (10_state.md R31): every operation of the model commutes with replacing them, and O50. -/

namespace Sys2Proof.Machine

open Sys2Proof.Claims (withNH)

/-! ## The state's operations -/

@[simp] theorem withNH_withNH (s : State) (n h n' h' : Bool) : withNH (withNH s n h) n' h' = withNH s n' h' := rfl
@[simp] theorem withNH_regs (s : State) (n h : Bool) : (withNH s n h).regs = s.regs := rfl
@[simp] theorem withNH_zero (s : State) (n h : Bool) : (withNH s n h).flags.z = s.flags.z := rfl
@[simp] theorem withNH_carry (s : State) (n h : Bool) : (withNH s n h).flags.c = s.flags.c := rfl
@[simp] theorem withNH_sp (s : State) (n h : Bool) : (withNH s n h).sp = s.sp := rfl
@[simp] theorem withNH_pc (s : State) (n h : Bool) : (withNH s n h).pc = s.pc := rfl
@[simp] theorem withNH_addr (s : State) (n h : Bool) (v : Int) : (withNH s n h).addr v = s.addr v := rfl
@[simp] theorem withNH_memRead (s : State) (n h : Bool) (a : Word) : (withNH s n h).memRead a = s.memRead a := rfl
@[simp] theorem withNH_atPair (s : State) (n h : Bool) (p : RegPair) : atPair p (withNH s n h) = atPair p s := rfl
@[simp] theorem withNH_atC (s : State) (n h : Bool) : atC (withNH s n h) = atC s := rfl
@[simp] theorem withNH_atN8 (s : State) (n h : Bool) (b : Byte) : atN8 b (withNH s n h) = atN8 b s := rfl
@[simp] theorem withNH_atA16 (s : State) (n h : Bool) (a : Word) : atA16 a (withNH s n h) = atA16 a s := rfl

@[simp] theorem withNH_source (s : State) (n h : Bool) (src : Source) : (withNH s n h).source src = s.source src := by
  cases src <;> rfl

@[simp] theorem withNH_loadPair (s : State) (n h : Bool) (p : LoadPair) : (withNH s n h).loadPair p = s.loadPair p := by
  cases p <;> rfl

@[simp] theorem setReg_withNH (s : State) (n h : Bool) (r : Reg) (v : Byte) :
    (withNH s n h).setReg r v = withNH (s.setReg r v) n h := rfl

@[simp] theorem setPair_withNH (s : State) (n h : Bool) (p : RegPair) (v : Word) :
    (withNH s n h).setPair p v = withNH (s.setPair p v) n h := rfl

@[simp] theorem setLoadPair_withNH (s : State) (n h : Bool) (p : LoadPair) (v : Word) :
    (withNH s n h).setLoadPair p v = withNH (s.setLoadPair p v) n h := by
  cases p <;> rfl

@[simp] theorem memWrite_withNH (s : State) (n h : Bool) (a : Word) (v : Byte) :
    (withNH s n h).memWrite a v = withNH (s.memWrite a v) n h := by
  unfold State.memWrite
  split <;> rfl

/-- Writing all four flags overwrites N and H. -/
@[simp] theorem writeFlags_withNH (s : State) (n h : Bool) (f : Flags) :
    (withNH s n h).writeFlags f = s.writeFlags f := by
  cases hm : s.cfg.flagMode
  · rw [State.writeFlags_hardware s f hm, State.writeFlags_hardware (withNH s n h) f hm]
    rfl
  · rw [State.writeFlags_reference s f hm, State.writeFlags_reference (withNH s n h) f hm]
    rfl

/-- A push carries N and H along. -/
theorem push16_withNH (v : Word) (s : State) (n h : Bool) :
    push16 v (withNH s n h) = (push16 v s).map (withNH · n h) := by
  unfold push16
  simp only [withNH_addr, withNH_sp, memWrite_withNH]
  split
  · rfl
  · split <;> rfl

/-- A pop carries N and H along. -/
theorem pop16_withNH (s : State) (n h : Bool) :
    pop16 (withNH s n h) = (pop16 s).map fun (v, t) => (v, withNH t n h) := by
  unfold pop16
  simp only [withNH_addr, withNH_sp]
  split
  · rfl
  · split <;> rfl

/-- A jump carries N and H along. -/
theorem jumpEffect_withNH (taken : Bool) (e : Int) (s : State) (n h : Bool) :
    formEffect.jumpEffect taken e (withNH s n h) = (formEffect.jumpEffect taken e s).map (withNH · n h) := by
  unfold formEffect.jumpEffect
  simp only [withNH_addr, withNH_pc]
  split
  · split <;> rfl
  · rfl

/-! ## One instruction -/

/-- What an effect answers, but for N and H. -/
def clearNH (r : Except Int State) : Except Int State := r.map (withNH · false false)

/-- What is kept of an answer does not depend on its N and H. -/
theorem clearNH_map_withNH (r : Except Int State) (n h : Bool) : clearNH (r.map (withNH · n h)) = clearNH r := by
  cases r <;> rfl

/-- An answer that equals a completed one but for N and H is a completed one. -/
theorem eq_ok_of_clearNH {r : Except Int State} {t : State} (hr : clearNH r = clearNH (.ok t)) :
    ∃ t', r = .ok t' ∧ withNH t' false false = withNH t false false := by
  cases r with
  | error x => cases hr
  | ok t' => exact ⟨t', rfl, Except.ok.inj hr⟩

/-- What an effect answers, but for N and H, does not depend on N and H. -/
theorem clearNH_formEffect_withNH (f : Form) (s : State) (n h : Bool) :
    clearNH (formEffect f (withNH s n h)) = clearNH (formEffect f s) := by
  cases f
  case jr | jrNZ | jrZ => simp only [formEffect, withNH_zero, jumpEffect_withNH, clearNH_map_withNH]
  case pushPair => simp only [formEffect, withNH_regs, push16_withNH, clearNH_map_withNH]
  case call =>
    simp only [formEffect, push16_withNH, withNH_pc]
    cases push16 s.pc s <;> rfl
  case ret | popPair =>
    simp only [formEffect, pop16_withNH]
    cases pop16 s <;> rfl
  case xorA | rla | rlReg | bitReg => rfl
  all_goals simp [formEffect, formEffect.addEffect, formEffect.subEffect, clearNH, Except.map]

/-- An instruction whose PC_next fits and whose effect completes answers what the effect answers. -/
theorem exec_of_formEffect_ok {i : Instr} {s t : State} (hpc : PcFits s i.length)
    (he : formEffect i.form { s with pc := s.pc + BitVec.ofNat 16 i.length } = .ok t) : exec i s = .next t := by
  rw [exec_eq, complete_fits hpc, he]

/-- Settles O50: a completed run is its effect's, which carries N and H along or overwrites them. -/
theorem noInstructionReadsNOrH : Obligations.NoInstructionReadsNOrH := by
  intro i s t n h _ hexec hrun
  rcases exec_cases i s t hexec with ⟨hpc, he⟩ | ⟨_, _, rfl⟩
  · have heff := clearNH_formEffect_withNH i.form { s with pc := s.pc + BitVec.ofNat 16 i.length } n h
    rw [he] at heff
    obtain ⟨t', ht', hsame⟩ := eq_ok_of_clearNH heff
    exact ⟨t', exec_of_formEffect_ok (s := withNH s n h) hpc ht', hsame⟩
  · cases hrun

end Sys2Proof.Machine
end

