-- ==== Sys2Proof/Proofs/FlagByte.lean ====
section
/-! SUPPORT. The packed flag byte and the reset state, O51 and O12. -/

namespace Sys2Proof.Machine

/-- A flag's bit is the boolean read as a number. -/
theorem bit_eq_toNat (b : Bool) : bit b = b.toNat := by
  cases b <;> rfl

/-- The packed byte is the sum of the four flags at their places (10_state.md R30). -/
theorem Flags.packed_toNat (f : Flags) :
    f.packed.toNat = f.z.toNat * 0x80 + f.n.toNat * 0x40 + f.h.toNat * 0x20 + f.c.toNat * 0x10 := by
  have hz := f.z.toNat_le
  have hn := f.n.toNat_le
  have hh := f.h.toNat_le
  have hc := f.c.toNat_le
  simp only [Flags.packed, bit_eq_toNat, BitVec.toNat_ofNat]
  omega

/-- The low nibble of a byte is the byte mod 16. -/
theorem lowNibble_toNat (v : Byte) : (v &&& 0x0F).toNat = v.toNat % 16 :=
  Nat.and_two_pow_sub_one_eq_mod v.toNat 4

/-- Settles O51: every flag's weight is a multiple of 16. -/
theorem flagByteHasZeroLowNibble : Obligations.FlagByteHasZeroLowNibble := by
  intro f
  have hpacked := f.packed_toNat
  refine ⟨hpacked, BitVec.eq_of_toNat_eq ?_⟩
  calc
    (f.packed &&& 0x0F).toNat = f.packed.toNat % 16 := lowNibble_toNat _
    _ = 0 := by omega

/-- Settles O12: reset memory is canonical, the standard DUMP_WINDOW is positive, and there is no fault record to agree. -/
theorem resetMeetsInvariant : Obligations.ResetMeetsInvariant := by
  have hcfg : State.reset.cfg.wf = true := by decide
  have hstatus : State.reset.statusAgrees = true := rfl
  refine ⟨?_, rfl, rfl⟩
  simp only [State.Inv, State.inv, State.reset_mem_wf, hcfg, hstatus, Bool.and_self]

end Sys2Proof.Machine
end

