-- ==== Sys2Proof/Proofs/Stores.lean ====
section
/-! SUPPORT. What the stores of an instruction do to memory, said once for every property of a memory; O52, a read after a write, and
O46, the memory every instruction leaves alone (20_memory.md R52, R60, R63, R64). -/

namespace Sys2Proof.Machine

/-! ## The access primitives -/

/-- MemRead of an address sees the parameters and the one cell at it. -/
theorem State.memRead_congr_cell {s t : State} (hc : s.cfg = t.cfg) {b : Word}
    (hb : s.mem.byteAt b.toNat = t.mem.byteAt b.toNat) : s.memRead b = t.memRead b := by
  simp only [State.memRead, hc, hb]

/-- A write to LY is discarded. -/
theorem State.memWrite_ly (s : State) (v : Byte) : s.memWrite lyAddr v = s := if_pos rfl

/-- A read after a write: LY_VALUE at LY, the byte written at its address, and elsewhere what was read before. -/
theorem State.memRead_memWrite (s : State) (a b : Word) (v : Byte) :
    (s.memWrite a v).memRead b = if b = lyAddr then s.cfg.lyValue else if b = a then v else s.memRead b := by
  by_cases hb : b = lyAddr
  · simp [State.memRead, hb]
  by_cases ha : a = lyAddr
  · subst ha
    rw [State.memWrite_ly, if_neg hb, if_neg hb]
  · simp only [State.memRead, hb, if_false, State.memWrite_mem, ha, Memory.byteAt_setByte, BitVec.toNat_inj]

/-- Settles O52: the two rules of MemWrite, with LY's address written out. -/
theorem memoryReadsLatestWrite : Obligations.MemoryReadsLatestWrite :=
  ⟨State.memRead_memWrite, State.memWrite_ly⟩

/-! ## The stores of one instruction -/

/-- A property of memories that stores at the given addresses keep. -/
def KeptByStores (P : Memory → Prop) (addresses : List Word) : Prop :=
  ∀ a ∈ addresses, ∀ (v : Byte) (m : Memory), P m → P (m.setByte a.toNat v)

/-- One MemWrite, discarded or not, keeps what stores at its address keep. -/
theorem KeptByStores.memWrite {P : Memory → Prop} {addresses : List Word} (hkept : KeptByStores P addresses)
    {a : Word} (ha : a ∈ addresses) {s : State} (hs : P s.mem) (v : Byte) : P (s.memWrite a v).mem := by
  rw [State.memWrite_mem]
  split
  · exact hs
  · exact hkept a ha v s.mem hs

/-- A push keeps what stores at SP and SP - 1 keep. -/
theorem KeptByStores.push16_mem {P : Memory → Prop} {v : Word} {s t : State} (hkept : KeptByStores P [s.sp, s.sp - 1])
    (h : push16 v s = .ok t) (hs : P s.mem) : P t.mem := by
  rcases push16_cases v s with ⟨_, e⟩ | ⟨_, _, e⟩ <;> rw [e] at h <;> cases h
  have hhi := hkept.memWrite (a := s.sp) (by simp) hs (hiByte v)
  exact hkept.memWrite (a := s.sp - 1) (by simp) hhi (loByte v)

/-- Every effect reaches memory through stores at its form's addresses alone: what those keep, the effect keeps. -/
theorem KeptByStores.formEffect_mem {P : Memory → Prop} {f : Form} {s t : State}
    (hkept : KeptByStores P (f.storeAddresses s)) (h : formEffect f s = .ok t) (hs : P s.mem) : P t.mem := by
  cases f
  case jr | jrNZ | jrZ =>
    rw [jumpEffect_frame h]
    exact hs
  case pushPair => exact hkept.push16_mem h hs
  case call =>
    obtain ⟨u, hpush, rfl⟩ := formEffect_call h
    have hu : P u.mem := hkept.push16_mem hpush hs
    exact hu
  case ret =>
    obtain ⟨v, rfl⟩ := formEffect_ret h
    exact hs
  case popPair =>
    obtain ⟨v, rfl⟩ := formEffect_popPair h
    exact hs
  case ldAtHL_reg | ldAtBC_A | ldAtDE_A | ldhAtN8_A | ldAtC_A | ldAtA16_A | ldAtHLinc_A | ldAtHLdec_A =>
    cases h
    exact hkept.memWrite (List.mem_singleton_self _) hs _
  all_goals
    cases h
    simpa using hs

/-- Where a form stores does not depend on PC. -/
theorem storeAddresses_pc (f : Form) (s : State) (w : Word) : f.storeAddresses { s with pc := w } = f.storeAddresses s := by
  cases f <;> rfl

/-- What stores at its form's addresses keep, an instruction keeps: a fault stores nothing. -/
theorem KeptByStores.exec_mem {P : Memory → Prop} {i : Instr} {s t : State}
    (hkept : KeptByStores P (i.form.storeAddresses s)) (h : exec i s = .next t) (hs : P s.mem) : P t.mem := by
  rcases exec_cases i s t h with ⟨_, he⟩ | ⟨_, _, rfl⟩
  · rw [← storeAddresses_pc i.form s (s.pc + BitVec.ofNat 16 i.length)] at hkept
    exact hkept.formEffect_mem he hs
  · exact hs

/-- Stores elsewhere keep the byte of a cell. -/
theorem keptByStores_byteAt {k : Nat} {addresses : List Word} (hk : ∀ a ∈ addresses, k ≠ a.toNat) (b : Byte) :
    KeptByStores (fun m => m.byteAt k = b) addresses := by
  intro a ha v m hm
  rw [Memory.byteAt_setByte, if_neg (hk a ha)]
  exact hm

/-- Stores keep the canonical form. -/
theorem keptByStores_wf (addresses : List Word) : KeptByStores (fun m => m.wf = true) addresses :=
  fun a _ v m hm => Memory.setByte_wf m a.toNat v a.isLt hm

/-- Settles O46: a cell the form does not store to keeps its byte, and MemRead sees one cell and the parameters. -/
theorem memoryFrame : Obligations.MemoryFrame := by
  intro i s t h
  have hcell : ∀ k : Nat, (∀ a ∈ i.form.storeAddresses s, k ≠ a.toNat) → t.mem.byteAt k = s.mem.byteAt k :=
    fun k hk => (keptByStores_byteAt hk _).exec_mem h rfl
  refine ⟨hcell, fun b hb => State.memRead_congr_cell (exec_cfg h) (hcell b.toNat fun a ha heq => ?_)⟩
  exact hb (BitVec.eq_of_toNat_eq heq ▸ ha)

end Sys2Proof.Machine
end

