-- ==== Sys2Proof/Proofs/Invariant.lean ====
section
/-! SUPPORT. O11: a fault records the state it is taken in, an instruction stores inside the address space, and the tick touches
no part of the invariant. -/

namespace Sys2Proof.Machine

/-- The invariant's three parts. -/
theorem State.inv_iff (s : State) : s.Inv ↔ s.mem.wf = true ∧ s.cfg.wf = true ∧ s.statusAgrees = true := by
  simp only [State.Inv, State.inv, Bool.and_eq_true, and_assoc]

/-- A Running status has no record to agree. -/
theorem State.statusAgrees_running {s : State} (h : s.Running) : s.statusAgrees = true := by
  simp only [State.statusAgrees, h]

/-- last_scy is no part of the invariant. -/
theorem State.inv_lastScy (s : State) (x : Option Byte) : State.inv { s with lastScy := x } = s.inv := rfl

/-- The record of a fault agrees with the state the fault is taken in. -/
theorem State.recordAgrees_faultRecord (s : State) (x : Raised) : s.recordAgrees (s.faultRecord x) = true := by
  cases x <;> simp [State.recordAgrees, State.faultRecord]

/-- A record's fields are not the status: it agrees with the Faulted state exactly when it does with the state before. -/
theorem State.recordAgrees_takeFault (s : State) (x : Raised) (r : FaultRecord) :
    (s.takeFault x).recordAgrees r = s.recordAgrees r := rfl

/-- The status after a fault holds the record of this very state. -/
theorem State.takeFault_statusAgrees (s : State) (x : Raised) : (s.takeFault x).statusAgrees = true := by
  simp only [State.statusAgrees, State.takeFault_status, State.recordAgrees_takeFault, State.recordAgrees_faultRecord]

/-- Taking a fault keeps the invariant. -/
theorem State.takeFault_inv {s : State} (hs : s.Inv) (x : Raised) : (s.takeFault x).Inv := by
  obtain ⟨hmem, hcfg, _⟩ := s.inv_iff.1 hs
  exact (State.inv_iff _).2 ⟨hmem, hcfg, s.takeFault_statusAgrees x⟩

/-- An instruction run in a Running state keeps the invariant. -/
theorem exec_inv {i : Instr} {s t : State} (hs : s.Inv) (hrun : s.Running) (h : exec i s = .next t) : t.Inv := by
  obtain ⟨hmem, hcfg, _⟩ := s.inv_iff.1 hs
  obtain ⟨_, _, hstatus | ⟨v, rfl⟩, _⟩ := hiddenStateFrame i s t h
  · have ht : t.Running := hstatus.trans hrun
    have hwf : t.mem.wf = true := (keptByStores_wf _).exec_mem h hmem
    exact t.inv_iff.2 ⟨hwf, (exec_cfg h).symm ▸ hcfg, State.statusAgrees_running ht⟩
  · exact State.takeFault_inv hs _

/-- Only a Running machine has a next state. -/
theorem running_of_step {s t : State} (h : step s = .next t) : s.Running := by
  obtain ⟨_, ho⟩ := systemStep_of_step h
  exact (systemStep_cases ho).1

/-- Settles O11: a step is a fault taken or an instruction run, and last_scy written after it. -/
theorem stepKeepsInvariant : Obligations.StepKeepsInvariant := by
  intro s t hs h
  rcases step_cases h with ⟨x, ht⟩ | ⟨i, u, hu, ht⟩ <;>
    rw [ht, State.Inv, State.inv_lastScy]
  · exact State.takeFault_inv hs x
  · exact exec_inv hs (running_of_step h) hu

end Sys2Proof.Machine
end

