-- ==== Sys2Proof/Proofs/FetchEdge.lean ====
section
/-! SUPPORT. The decoder reads an instruction's bytes in order and no byte beyond them (30_encoding.md R80, R81), so a fetch gives
the decoded instruction or the fault of the first byte without an address; and O6, the EdgeFaults at the top of memory
(60_exceptions.md R246, R247). -/

namespace Sys2Proof

/-! ## The decoder's reads -/

/-- The bytes the decoder read when it answered an instruction, and how many: 0xCB and a byte of the CB map, or an opcode of the
primary map and the operand bytes of its format (R80, R82). -/
inductive ReadsAs {ε : Type} (read : Nat → Except ε Byte) : Nat → Instr → Prop where
  | cb {op2 : Byte} {i : Instr} (h0 : read 0 = .ok 0xCB) (h1 : read 1 = .ok op2) (hcell : cbTable op2 = some i) :
    ReadsAs read 2 i
  | p1 {op : Byte} {i : Instr} (h0 : read 0 = .ok op) (hop : op ≠ 0xCB) (hcell : primary op = some (.p1 i)) :
    ReadsAs read 1 i
  | n8 {op b1 : Byte} {f : Byte → Instr} (h0 : read 0 = .ok op) (hop : op ≠ 0xCB)
    (hcell : primary op = some (.n8 f)) (h1 : read 1 = .ok b1) : ReadsAs read 2 (f b1)
  | e8 {op b1 : Byte} {f : Int → Instr} (h0 : read 0 = .ok op) (hop : op ≠ 0xCB)
    (hcell : primary op = some (.e8 f)) (h1 : read 1 = .ok b1) : ReadsAs read 2 (f (sext b1))
  | p3 {op b1 b2 : Byte} {f : Word → Instr} (h0 : read 0 = .ok op) (hop : op ≠ 0xCB)
    (hcell : primary op = some (.p3 f)) (h1 : read 1 = .ok b1) (h2 : read 2 = .ok b2) : ReadsAs read 3 (f (wordOf b2 b1))

/-- The bytes read are as many as the instruction is long (R81). -/
theorem ReadsAs.length_eq {ε : Type} {read : Nat → Except ε Byte} {len : Nat} {i : Instr} (h : ReadsAs read len i) :
    i.length = len := by
  rw [← encode_length]
  cases h with
  | @cb op2 _ _ _ hcell =>
    have hsound := cb_sound op2
    simp only [CbSound, hcell] at hsound
    rw [hsound.1]
    rfl
  | @p1 op _ _ _ hcell =>
    have hsound := primary_sound op
    simp only [PrimarySound, hcell] at hsound
    rw [hsound.1]
    rfl
  | @n8 op _ _ _ _ hcell _ | @e8 op _ _ _ _ hcell _ | @p3 op _ _ _ _ _ hcell _ _ =>
    have hsound := primary_sound op
    simp only [PrimarySound, hcell] at hsound
    rw [(hsound _).1]
    rfl

/-- What the decoder answers, it has read, and the bytes it has read are the instruction's. -/
theorem readsAs_of_decodeFrom {ε : Type} {u : Bool → Byte → ε} {read : Nat → Except ε Byte} {i : Instr}
    (h : decodeFrom u read = .ok i) : ReadsAs read i.length i := by
  suffices hreads : ∃ len, ReadsAs read len i by
    obtain ⟨len, hlen⟩ := hreads
    exact hlen.length_eq.symm ▸ hlen
  unfold decodeFrom at h
  split at h
  · cases h
  rename_i op h0
  split at h
  · rename_i hop
    subst hop
    split at h
    · cases h
    split at h <;> cases h
    exact ⟨2, .cb h0 (by assumption) (by assumption)⟩
  rename_i hop
  split at h
  case h_1 => cases h
  case h_2 hcell =>
    cases h
    exact ⟨1, .p1 h0 hop hcell⟩
  case h_3 hcell =>
    split at h <;> cases h
    exact ⟨2, .n8 h0 hop hcell (by assumption)⟩
  case h_4 hcell =>
    split at h <;> cases h
    exact ⟨2, .e8 h0 hop hcell (by assumption)⟩
  case h_5 hcell =>
    split at h
    · cases h
    split at h <;> cases h
    exact ⟨3, .p3 h0 hop hcell (by assumption) (by assumption)⟩

/-! ## Two sources of bytes that agree -/

section
variable {ε ε' : Type} {u : Bool → Byte → ε} {read : Nat → Except ε Byte} {u' : Bool → Byte → ε'}
  {read' : Nat → Except ε' Byte} {i : Instr}

/-- A source that gives the same bytes of the instruction decodes to it. -/
theorem decodeFrom_ok_of_agree (h : decodeFrom u read = .ok i)
    (hagree : ∀ k < i.length, ∀ b, read k = .ok b → read' k = .ok b) : decodeFrom u' read' = .ok i := by
  have hreads := readsAs_of_decodeFrom h
  generalize i.length = len at hreads hagree
  cases hreads with
  | cb h0 h1 hcell =>
    simp only [decodeFrom, hagree 0 (by decide) _ h0, hagree 1 (by decide) _ h1, hcell, if_true]
  | p1 h0 hop hcell => simp only [decodeFrom, hagree 0 (by decide) _ h0, if_neg hop, hcell]
  | n8 h0 hop hcell h1 | e8 h0 hop hcell h1 =>
    simp only [decodeFrom, hagree 0 (by decide) _ h0, if_neg hop, hcell, hagree 1 (by decide) _ h1]
  | p3 h0 hop hcell h1 h2 =>
    simp only [decodeFrom, hagree 0 (by decide) _ h0, if_neg hop, hcell, hagree 1 (by decide) _ h1,
      hagree 2 (by decide) _ h2]

/-- A source that gives the same bytes up to one of the instruction's, and fails there, fails the decoding with that failure. -/
theorem decodeFrom_error_of_agree (h : decodeFrom u read = .ok i) {n : Nat} (hn : n < i.length)
    (hagree : ∀ k < n, ∀ b, read k = .ok b → read' k = .ok b) {x : ε'} (hx : read' n = .error x) :
    decodeFrom u' read' = .error x := by
  have hreads := readsAs_of_decodeFrom h
  generalize i.length = len at hreads hn
  obtain rfl | hpos := Nat.eq_zero_or_pos n
  · simp only [decodeFrom, hx]
  cases hreads with
  | cb h0 h1 hcell =>
    obtain rfl : n = 1 := by omega
    simp only [decodeFrom, hagree 0 hpos _ h0, hx, if_true]
  | p1 h0 hop hcell => omega
  | n8 h0 hop hcell h1 | e8 h0 hop hcell h1 =>
    obtain rfl : n = 1 := by omega
    simp only [decodeFrom, hagree 0 hpos _ h0, if_neg hop, hcell, hx]
  | p3 h0 hop hcell h1 h2 =>
    obtain rfl | rfl : n = 1 ∨ n = 2 := by omega
    · simp only [decodeFrom, hagree 0 hpos _ h0, if_neg hop, hcell, hx]
    · simp only [decodeFrom, hagree 0 hpos _ h0, if_neg hop, hcell, hagree 1 (by decide) _ h1, hx]
end

end Sys2Proof

namespace Sys2Proof.Machine

/-! ## Fetching at PC -/

/-- A list of bytes that decodes is read as the decoder reads any source. -/
theorem decodeFrom_of_decode {bytes rest : List Byte} {i : Instr} (h : decode bytes = .ok (i, rest)) :
    decodeFrom .unsupported (listByte bytes) = .ok i := by
  unfold decode at h
  split at h <;> cases h
  assumption

/-- A byte at PC whose address fits is fetched as it stands in the list of the bytes at PC. -/
theorem fetchByte_of_listByte {s : State} {k : Nat} (hfit : BytesFit s (k + 1)) {b : Byte}
    (h : listByte s.bytesAtPc k = .ok b) : s.fetchByte k = .ok b := by
  unfold listByte at h
  split at h <;> cases h
  rename_i hget
  have hk : k < 3 := (List.getElem?_eq_some_iff.1 hget).1
  rw [fetchByte_ok s k hk hfit, List.getD_eq_getElem?_getD, hget]
  rfl

/-- When the bytes at PC decode to an instruction and its bytes fit, the fetch gives it. -/
theorem fetch_ok_of_decode {s : State} {i : Instr} {rest : List Byte} (h : decode s.bytesAtPc = .ok (i, rest))
    (hfit : BytesFit s i.length) : s.fetch = .ok i := by
  refine decodeFrom_ok_of_agree (decodeFrom_of_decode h) fun k hk b hb => fetchByte_of_listByte ?_ hb
  exact hfit.imp id (by omega)

/-- When the bytes at PC decode to an instruction and not all of them lie in the address space, the fetch takes the EdgeFault of
0x10000, whichever byte that is. -/
theorem fetch_error_of_decode {s : State} {i : Instr} {rest : List Byte} (hm : s.cfg.edgeMode = .fault)
    (h : decode s.bytesAtPc = .ok (i, rest)) (hout : 0x10000 < s.pc.toNat + i.length) :
    s.fetch = .error (.edgeFault 0x10000) := by
  have hpc := s.pc.isLt
  have hx := fetchByte_error s (0x10000 - s.pc.toNat) hm (by omega)
  have hv : ((s.pc.toNat : Int) + (0x10000 - s.pc.toNat : Nat)) = 0x10000 := by omega
  rw [hv] at hx
  refine decodeFrom_error_of_agree (decodeFrom_of_decode h) (by omega) (fun k hk b hb => ?_) hx
  exact fetchByte_of_listByte (.inr (by omega)) hb

/-- 0xCB at the last address needs a second byte that has none. -/
theorem fetch_error_of_cb_at_top {s : State} (hm : s.cfg.edgeMode = .fault) (hpc : s.pc = 0xFFFF)
    (hcb : s.memRead s.pc = 0xCB) : s.fetch = .error (.edgeFault 0x10000) := by
  have h0 := fetchByte_ok s 0 (by decide) (.inr (by simp [hpc]))
  have h1 := fetchByte_error s 1 hm (by simp [hpc])
  have hop : s.bytesAtPc.getD 0 0 = 0xCB := hcb
  rw [hpc] at h1
  simp only [State.fetch, decodeFrom, h0, hop, if_true, h1]
  rfl

/-! ## The fault of a step -/

/-- An instruction whose PC_next does not fit takes the EdgeFault of PC_next. -/
theorem exec_edgeFault {i : Instr} {s : State} (hm : s.cfg.edgeMode = .fault) (hout : 0xFFFF < s.pc.toNat + i.length) :
    exec i s = .next (s.takeFault (.edgeFault (s.pc.toNat + i.length))) := by
  have hnot : ¬ PcFits s i.length := by
    rintro (hw | hle)
    · rw [hm] at hw
      cases hw
    · omega
  rw [exec_eq]
  rcases complete_cases i.length (formEffect i.form) s with ⟨hfit, _⟩ | ⟨hfit, _⟩ | ⟨_, _, h⟩
  · exact absurd hfit hnot
  · exact absurd hfit hnot
  · exact h

/-- A step whose interpreter half takes a fault answers that fault: no tick runs (55_driver.md R232). -/
theorem step_of_interpret_takeFault {s : State} {x : Raised} (hrun : s.Running)
    (h : interpret s = .next (s.takeFault x)) : step s = .next (s.takeFault x) := by
  simp only [step, systemStep, hrun, h, afterStep, State.takeFault_status]

/-- A step whose fetch raises takes what is raised. -/
theorem step_of_fetch_error {s : State} {x : Raised} (hrun : s.Running) (h : s.fetch = .error x) :
    step s = .next (s.takeFault x) :=
  step_of_interpret_takeFault hrun (by simp only [interpret, h])

/-- Settles O6: beyond the last address the fetch faults, and an instruction that ends at it faults at PC_next. -/
theorem edgeFaultsAtTheTopOfMemory : Obligations.EdgeFaultsAtTheTopOfMemory := by
  refine ⟨?_, ?_, fun i s => exec_edgeFault⟩
  · intro s hrun hm hpc hcb
    exact step_of_fetch_error hrun (fetch_error_of_cb_at_top hm hpc hcb)
  · intro s i rest hrun hm hdec hout
    by_cases hfit : s.pc.toNat + i.length ≤ 0x10000
    · have hfetch := fetch_ok_of_decode hdec (.inr hfit)
      have hexec := exec_edgeFault hm hout
      have hv : (s.pc.toNat : Int) + i.length = 0x10000 := by omega
      rw [hv] at hexec
      exact step_of_interpret_takeFault hrun (by simp only [interpret, hfetch, hexec])
    · exact step_of_fetch_error hrun (fetch_error_of_decode hm hdec (by omega))

end Sys2Proof.Machine
end

