-- ==== Sys2Proof/Proofs/GraphicsReads.lean ====
section
/-! SUPPORT. Which cells each stage of the graphics pipeline reads (50_graphics.md R201, R202, R205, R206), and O58: no other
(20_memory.md R54). -/

namespace Sys2Proof.Machine

/-- Two grids with the same pixels. -/
theorem Grid.ofFn_congr {w h : Nat} {f g : Fin w → Fin h → Pixel} (hfg : ∀ x y, f x y = g x y) :
    Grid.ofFn f = Grid.ofFn g :=
  congrArg Grid.ofFn (funext fun x => funext fun y => hfg x y)

/-- A tile reads the sixteen cells from its base. -/
theorem decodeTile_congr {m m' : Memory} {base : Nat}
    (h : ∀ k, base ≤ k → k < base + 16 → m.byteAt k = m'.byteAt k) : decodeTile m base = decodeTile m' base := by
  refine Grid.ofFn_congr fun c r => ?_
  have h0 : gfxRead m (base + 2 * r.val) = gfxRead m' (base + 2 * r.val) := h _ (by omega) (by omega)
  have h1 : gfxRead m (base + 2 * r.val + 1) = gfxRead m' (base + 2 * r.val + 1) := h _ (by omega) (by omega)
  rw [h0, h1]

section
variable {m m' : Memory} (hdata : ∀ k, 0x8000 ≤ k → k ≤ 0x8FFF → m.byteAt k = m'.byteAt k)
  (hmap : ∀ k, 0x9800 ≤ k → k ≤ 0x9BFF → m.byteAt k = m'.byteAt k)

include hdata in
/-- The tile of any index reads tile data alone. -/
theorem tileOf_congr (index : Byte) : tileOf m index = tileOf m' index := by
  have hindex := index.isLt
  refine decodeTile_congr fun k hlo hhi => hdata k ?_ ?_ <;> simp only [tileDataBase] at hlo hhi <;> omega

include hmap in
/-- The tile index of a map cell is read in the tile map. -/
theorem tileIndex_congr (col row : Fin 32) : tileIndex m col row = tileIndex m' col row :=
  hmap _ (by simp only [tileMapBase]; omega) (by simp only [tileMapBase]; omega)

include hdata hmap

/-- The background reads tile data and tile map alone. -/
theorem compose_congr : compose m = compose m' := by
  have htiles : mapTiles m = mapTiles m' := by
    refine congrArg Vector.ofFn (funext fun col => congrArg Vector.ofFn (funext fun row => ?_))
    rw [tileIndex_congr hmap col row, tileOf_congr hdata]
  simp only [compose, htiles]

/-- A frame reads the background's cells and SCX. -/
theorem render_congr (hscx : m.byteAt 0xFF43 = m'.byteAt 0xFF43) (scy : Byte) : render m scy = render m' scy := by
  have hread : gfxRead m scxAddr.toNat = gfxRead m' scxAddr.toNat := hscx
  rw [render, render, compose_congr hdata hmap, hread]
end

/-- Settles O58: whether a tick renders is read off last_scy and SCY, and the frame off the rest of the cells. -/
theorem graphicsReadOnlyTheirCells : Obligations.GraphicsReadOnlyTheirCells := by
  intro s t hlast hcells
  have hscy : gfxRead s.mem scyAddr.toNat = gfxRead t.mem scyAddr.toNat := hcells 0xFF42 (by decide)
  have hrender := render_congr (fun k hlo hhi => hcells k (.inl ⟨hlo, hhi⟩))
    (fun k hlo hhi => hcells k (.inr (.inl ⟨hlo, hhi⟩))) (hcells 0xFF43 (by decide))
  rw [tick_frame, tick_frame, hlast, hscy, hrender]

end Sys2Proof.Machine
end

