-- ==== Sys2Proof/Proofs/RoundTrip.lean ====
section
/-! SUPPORT. The decoder reads the encoding of what it answers, and reads every well-formed instruction's encoding as that
instruction; O1 and O2, the two directions of the round trip, and O3 (30_encoding.md R80 to R92). -/

namespace Sys2Proof

/-! ## What decodes is what is read -/

/-- What reads as an instruction decodes to it, from any source of bytes. -/
theorem ReadsAs.decodeFrom_eq {ε : Type} {u : Bool → Byte → ε} {read : Nat → Except ε Byte} {len : Nat} {i : Instr}
    (h : ReadsAs read len i) : decodeFrom u read = .ok i := by
  cases h with
  | cb h0 h1 hcell => simp only [decodeFrom, h0, h1, hcell, if_true]
  | p1 h0 hop hcell => simp only [decodeFrom, h0, if_neg hop, hcell]
  | n8 h0 hop hcell h1 | e8 h0 hop hcell h1 => simp only [decodeFrom, h0, if_neg hop, hcell, h1]
  | p3 h0 hop hcell h1 h2 => simp only [decodeFrom, h0, if_neg hop, hcell, h1, h2]

/-- A list of bytes decodes to what is read from it, and the rest is what lies beyond the bytes read. -/
theorem decode_eq_ok_iff {bytes rest : List Byte} {i : Instr} :
    decode bytes = .ok (i, rest) ↔ ReadsAs (listByte bytes) i.length i ∧ rest = bytes.drop i.length := by
  constructor
  · intro h
    have hfrom := Machine.decodeFrom_of_decode h
    simp only [decode, hfrom] at h
    cases h
    exact ⟨readsAs_of_decodeFrom hfrom, rfl⟩
  · rintro ⟨hreads, rfl⟩
    simp only [decode, hreads.decodeFrom_eq]

/-! ## The cells of the maps -/

section
variable {op : Byte}

/-- A cell of format P1 holds the instruction encoded as its opcode byte. -/
theorem encode_of_primary_p1 {i : Instr} (hcell : primary op = some (.p1 i)) : encode i = [op] ∧ WellFormed i := by
  simpa only [PrimarySound, hcell] using primary_sound op

/-- A cell of format P2-n8 holds instructions encoded as its opcode byte and their operand. -/
theorem encode_of_primary_n8 {f : Byte → Instr} (hcell : primary op = some (.n8 f)) (n : Byte) :
    encode (f n) = [op, n] ∧ WellFormed (f n) := by
  have hsound := primary_sound op
  simp only [PrimarySound, hcell] at hsound
  exact hsound n

/-- A cell of format P2-e8 holds instructions encoded as its opcode byte and the byte their displacement is read from. -/
theorem encode_of_primary_e8 {f : Int → Instr} (hcell : primary op = some (.e8 f)) (b : Byte) :
    encode (f (sext b)) = [op, b] ∧ WellFormed (f (sext b)) := by
  have hsound := primary_sound op
  simp only [PrimarySound, hcell] at hsound
  obtain ⟨henc, hwf⟩ := hsound (sext b)
  rw [displacementByte_sext] at henc
  exact ⟨henc, hwf (displacementFits_sext b)⟩

/-- A cell of format P3 holds instructions encoded as its opcode byte and their operand's two bytes, low byte first. -/
theorem encode_of_primary_p3 {f : Word → Instr} (hcell : primary op = some (.p3 f)) (lo hi : Byte) :
    encode (f (wordOf hi lo)) = [op, lo, hi] ∧ WellFormed (f (wordOf hi lo)) := by
  have hsound := primary_sound op
  simp only [PrimarySound, hcell] at hsound
  simpa only [loByte_wordOf, hiByte_wordOf] using hsound (wordOf hi lo)

/-- A cell of the CB map holds the instruction encoded as 0xCB and its byte. -/
theorem encode_of_cbTable {i : Instr} (hcell : cbTable op = some i) : encode i = [0xCB, op] ∧ WellFormed i := by
  simpa only [CbSound, hcell] using cb_sound op
end

/-! ## What the decoder reads is the encoding -/

/-- A source of bytes gives the bytes of a list in order, before any others. -/
def Gives {ε : Type} (read : Nat → Except ε Byte) (word : List Byte) : Prop :=
  ∀ k b, word[k]? = some b → read k = .ok b

/-- Every source gives the empty list. -/
theorem Gives.nil {ε : Type} {read : Nat → Except ε Byte} : Gives read [] := fun _ _ h => nomatch h

/-- A list is given when its head is read first and its tail from there on. -/
theorem Gives.cons {ε : Type} {read : Nat → Except ε Byte} {b : Byte} {word : List Byte} (h0 : read 0 = .ok b)
    (h : Gives (fun k => read (k + 1)) word) : Gives read (b :: word)
  | 0, _, hb => Option.some.inj hb ▸ h0
  | k + 1, c, hc => h k c hc

/-- What a list of bytes gives in order, it begins with. -/
theorem Gives.isPrefix_of_listByte {bytes word : List Byte} (h : Gives (listByte bytes) word) : word <+: bytes := by
  refine List.prefix_iff_getElem?.2 fun k hk => ?_
  have hread := h k word[k] (List.getElem?_eq_getElem hk)
  unfold listByte at hread
  split at hread <;> cases hread
  assumption

/-- The decoder reads the encoding of the instruction it answers, which is well formed. -/
theorem ReadsAs.gives_encode {ε : Type} {read : Nat → Except ε Byte} {len : Nat} {i : Instr} (h : ReadsAs read len i) :
    Gives read (encode i) ∧ WellFormed i := by
  cases h with
  | cb h0 h1 hcell =>
    obtain ⟨henc, hwf⟩ := encode_of_cbTable hcell
    exact ⟨henc ▸ .cons h0 (.cons h1 .nil), hwf⟩
  | p1 h0 _ hcell =>
    obtain ⟨henc, hwf⟩ := encode_of_primary_p1 hcell
    exact ⟨henc ▸ .cons h0 .nil, hwf⟩
  | n8 h0 _ hcell h1 =>
    obtain ⟨henc, hwf⟩ := encode_of_primary_n8 hcell _
    exact ⟨henc ▸ .cons h0 (.cons h1 .nil), hwf⟩
  | e8 h0 _ hcell h1 =>
    obtain ⟨henc, hwf⟩ := encode_of_primary_e8 hcell _
    exact ⟨henc ▸ .cons h0 (.cons h1 .nil), hwf⟩
  | p3 h0 _ hcell h1 h2 =>
    obtain ⟨henc, hwf⟩ := encode_of_primary_p3 hcell _ _
    exact ⟨henc ▸ .cons h0 (.cons h1 (.cons h2 .nil)), hwf⟩

/-- Settles O2: the bytes begin with the encoding of what they decode to, and the rest is what follows it. -/
theorem decodedBytesAreTheEncoding : Obligations.DecodedBytesAreTheEncoding := by
  intro bytes i rest h
  obtain ⟨hreads, hrest⟩ := decode_eq_ok_iff.1 h
  obtain ⟨hgives, hwf⟩ := hreads.gives_encode
  obtain ⟨tail, rfl⟩ := hgives.isPrefix_of_listByte
  refine ⟨hwf, ?_⟩
  rw [hrest, ← encode_length, List.drop_left]

/-! ## An encoding is read as its instruction -/

section
variable {ε : Type} {read : Nat → Except ε Byte} {op : Byte}

/-- Format P2-e8 by the displacement: one that fits is read back from its byte. -/
theorem ReadsAs.e8_displacement {f : Int → Instr} {e : Int} (he : displacementFits e = true) (h0 : read 0 = .ok op)
    (hop : op ≠ 0xCB) (hcell : primary op = some (.e8 f)) (h1 : read 1 = .ok (displacementByte e)) :
    ReadsAs read 2 (f e) :=
  sext_displacementByte e he ▸ .e8 h0 hop hcell h1

/-- Format P3 by the operand: a word is read back from its two bytes. -/
theorem ReadsAs.p3_operand {f : Word → Instr} {v : Word} (h0 : read 0 = .ok op) (hop : op ≠ 0xCB)
    (hcell : primary op = some (.p3 f)) (h1 : read 1 = .ok (loByte v)) (h2 : read 2 = .ok (hiByte v)) :
    ReadsAs read 3 (f v) :=
  wordOf_hiByte_loByte v ▸ .p3 h0 hop hcell h1 h2
end

/-- The encoding of a well-formed form is read as its instruction, whatever follows: the maps hold, at the opcode its pattern
gives, the form's own cell (R83 to R88 against R91 and R92). -/
theorem readsAs_encode {f : Form} (hf : f.wellFormed = true) (rest : List Byte) :
    ReadsAs (listByte (f.encode ++ rest)) f.length f.instr := by
  cases f with
  | ldReg_n8 r n => cases r <;> exact .n8 rfl (by decide) rfl rfl
  | ldhAtN8_A n | ldhA_atN8 n | addA_n8 n | subN8 n | cpN8 n => exact .n8 rfl (by decide) rfl rfl
  | jr e | jrNZ e | jrZ e => exact .e8_displacement hf rfl (by decide) rfl rfl
  | ldPair_n16 p n => cases p <;> exact .p3_operand rfl (by decide) rfl rfl rfl
  | ldAtA16_A a | ldA_atA16 a | call a => exact .p3_operand rfl (by decide) rfl rfl rfl
  | ldReg_reg dst src => cases dst <;> cases src <;> exact .p1 rfl (by decide) rfl
  | ldReg_atHL r | ldAtHL_reg r | addA_reg r | subReg r | cpReg r | incReg r | decReg r =>
    cases r <;> exact .p1 rfl (by decide) rfl
  | incPair p | decPair p | pushPair p | popPair p => cases p <;> exact .p1 rfl (by decide) rfl
  | ldAtBC_A | ldAtDE_A | ldA_atBC | ldA_atDE | ldAtHLinc_A | ldAtHLdec_A | ldAtC_A | ldA_atC | addA_atHL | subAtHL
  | cpAtHL | xorA | ret | rla => exact .p1 rfl (by decide) rfl
  | rlReg r => cases r <;> exact .cb rfl rfl rfl
  | bitReg b r =>
    match b with
    | 0 | 1 | 2 | 3 | 4 | 5 | 6 | 7 => cases r <;> exact .cb rfl rfl rfl

/-- Settles O1: an encoding is read as its instruction, and as many bytes are read as it has. -/
theorem decodeOfEncodeIsTheInstruction : Obligations.DecodeOfEncodeIsTheInstruction := by
  intro i hwf rest
  have hreads := readsAs_encode hwf rest
  rw [Machine.instr_form] at hreads
  refine decode_eq_ok_iff.2 ⟨hreads, ?_⟩
  rw [← encode_length, List.drop_left]

/-- Settles O3: each word's cell is looked up in its map. -/
theorem wordsFromTheSpecDecode : Obligations.WordsFromTheSpecDecode :=
  ⟨rfl, rfl, rfl, rfl, rfl, rfl, rfl, rfl, rfl, rfl, rfl, rfl⟩

end Sys2Proof
end

