-- ==== Sys2Proof/Proofs/StepRuns.lean ====
section
/-! SUPPORT. The driver's half of a step by the status it finds, and O4: from a state whose bytes at PC decode, a system step is the
instruction and that half (30_encoding.md R80, 55_driver.md R231, R232). -/

namespace Sys2Proof.Machine

/-- An instruction always answers a next state. -/
theorem exec_next (i : Instr) (s : State) : ∃ t, exec i s = .next t := by
  rw [exec_eq]
  exact complete_next _ _ _

/-- After a completed step one tick. -/
theorem afterStep_running {t : State} (h : t.Running) :
    afterStep t = ((tick t).1, { frame := (tick t).2, report := none }) := by
  simp only [afterStep, h]

/-- After a faulting step its record and no tick. -/
theorem afterStep_faulted {t : State} {r : FaultRecord} (h : t.status = .faulted r) :
    afterStep t = (t, { frame := none, report := some r }) := by
  simp only [afterStep, h]

/-- The system step of a Running state whose bytes at PC decode and fit: the instruction, then the driver's half. -/
theorem systemStep_of_decode {s t : State} {i : Instr} {rest : List Byte} (hrun : s.Running)
    (hdec : decode s.bytesAtPc = .ok (i, rest)) (hfit : BytesFit s i.length) (hexec : exec i s = .next t) :
    systemStep s = .next (afterStep t) := by
  simp only [systemStep, hrun, interpret, fetch_ok_of_decode hdec hfit, hexec]

/-- The step is the system step without its outputs. -/
theorem step_of_systemStep {s t : State} {o : Output} (h : systemStep s = .next (t, o)) : step s = .next t := by
  simp only [step, h]

/-- Settles O4: the instruction's answer is Running or Faulted, and the driver's half does what its status asks. -/
theorem stepRunsTheDecodedInstruction : Obligations.StepRunsTheDecodedInstruction := by
  intro s i rest hrun hdec hfit
  obtain ⟨t, hexec⟩ := exec_next i s
  have hsys := systemStep_of_decode hrun hdec hfit hexec
  refine ⟨t, hexec, fun ht => ?_, fun r ht => ?_⟩
  · rw [afterStep_running ht] at hsys
    exact ⟨hsys, step_of_systemStep hsys⟩
  · rw [afterStep_faulted ht] at hsys
    exact ⟨hsys, step_of_systemStep hsys⟩

end Sys2Proof.Machine
end

