-- ==== Sys2Proof/Proofs/Encodings.lean ====
section
/-! SUPPORT. For the statements about one form: its encoding decodes to its instruction, whatever follows (30_encoding.md R83 to
R88). -/

namespace Sys2Proof

open Sys2Proof.Claims (Decodes)

/-- The form of a form's instruction is the form. -/
theorem form_instr (f : Form) : f.instr.form = f := by
  cases f with
  | ldReg_reg dst src => cases dst <;> cases src <;> rfl
  | ldReg_n8 r n | ldReg_atHL r | ldAtHL_reg r | addA_reg r | subReg r | cpReg r | incReg r | decReg r | rlReg r =>
    cases r <;> rfl
  | ldPair_n16 p n | incPair p | decPair p | pushPair p | popPair p => cases p <;> rfl
  | bitReg b r =>
    match b with
    | 0 | 1 | 2 | 3 | 4 | 5 | 6 | 7 => cases r <;> rfl
  | _ => rfl

/-- Bytes that are the encoding of a well-formed form decode to its instruction. -/
theorem decodes_of_encode {f : Form} {bytes : List Byte} (hwf : f.wellFormed = true) (hbytes : f.encode = bytes) :
    Decodes bytes f.instr := by
  intro rest
  have hdec := decodeOfEncodeIsTheInstruction f.instr
  simp only [WellFormed, Instr.wellFormed, encode, form_instr] at hdec
  exact hbytes ▸ hdec hwf rest

/-- The operand bytes of a word given by its two bytes (R87). -/
theorem operand16_append (hi lo : Byte) : operand16 (hi ++ lo) = [lo, hi] := by
  rw [← wordOf_append, operand16, loByte_wordOf, hiByte_wordOf]

end Sys2Proof
end

