-- ==== Sys2Proof/Proofs/Loads.lean ====
section
/-! SUPPORT. What each of the six shared operations of the loads answers when PC_next fits, the effective addresses as bytes side by
side, and O16 to O26, the loads and stores (40_loads.md R100 to R117). -/

namespace Sys2Proof.Machine

open Sys2Proof.Claims

/-! ## Effective addresses (R100) and pairs (R21) -/

/-- The address in a pair is its two registers side by side. -/
theorem atPair_eq_pairOf (p : RegPair) (s : State) : atPair p s = pairOf s p := by
  cases p <;> exact wordOf_append _ _

/-- An address of the high page has 0xFF as its high byte. -/
theorem highPage_eq_append (n : Byte) : highPage n = 0xFF#8 ++ n :=
  wordOf_append 0xFF n

/-- Writing a pair writes the slices of the word to its two registers. -/
theorem Regs.setPair_eq_withPair (g : Regs) (p : RegPair) (v : Word) : g.setPair p v = withPair g v p := by
  rw [Regs.setPair, hiByte_eq, loByte_eq]
  cases p <;> rfl

/-- Writing a word given by its two bytes to a pair writes the bytes to its two registers. -/
theorem Regs.setPair_wordOf (g : Regs) (p : RegPair) (hi lo : Byte) :
    g.setPair p (wordOf hi lo) = (g.set (pairHi p) hi).set (pairLo p) lo := by
  rw [Regs.setPair, hiByte_wordOf, loByte_wordOf]

/-! ## The shared operations -/

section
variable {s : State}

/-- An effect that completes after a PC_next that fits is the instruction's answer. -/
theorem complete_ok {len : Nat} {effect : Effect} {t : State} (hpc : PcFits s len)
    (he : effect { s with pc := s.pc + BitVec.ofNat 16 len } = .ok t) : s.complete len effect = .next t := by
  rw [complete_fits hpc, he]

/-- MemWrite does not see PC. -/
theorem State.memWrite_withPc (s : State) (w : Word) (a : Word) (v : Byte) :
    State.memWrite { s with pc := w } a v = { s.memWrite a v with pc := w } := by
  unfold State.memWrite
  split <;> rfl

/-- LD r,n8 changes its register and PC alone. -/
theorem loadImm8_fits {r : Reg} {n : Byte} (hpc : PcFits s 2) :
    loadImm8 r n s = .next { s with pc := s.pc + 2, regs := s.regs.set r n } :=
  complete_ok hpc rfl

/-- LD rr,n16 writes its operand at PC_next. -/
theorem loadImm16_fits {p : LoadPair} {n : Word} (hpc : PcFits s 3) :
    loadImm16 p n s = .next (State.setLoadPair { s with pc := s.pc + 3 } p n) :=
  complete_ok hpc rfl

/-- LD r,r' changes its destination and PC alone. -/
theorem moveReg_fits {dst src : Reg} (hpc : PcFits s 1) :
    moveReg dst src s = .next { s with pc := s.pc + 1, regs := s.regs.set dst (s.regs.get src) } :=
  complete_ok hpc rfl

variable {len : Nat} {ea : State → Word} {a : Word}

/-- A load whose effective address is `a`, whatever it reads of the state. -/
theorem loadFrom_fits {dst : Reg} (hpc : PcFits s len) (ha : ea { s with pc := s.pc + BitVec.ofNat 16 len } = a) :
    loadFrom len dst ea s =
      .next { s with pc := s.pc + BitVec.ofNat 16 len, regs := s.regs.set dst (s.memRead a) } := by
  subst ha
  exact complete_ok hpc rfl

/-- A store whose effective address is `a`, whatever it reads of the state. -/
theorem storeTo_fits {src : Reg} (hpc : PcFits s len) (ha : ea { s with pc := s.pc + BitVec.ofNat 16 len } = a) :
    storeTo len ea src s = .next { s.memWrite a (s.regs.get src) with pc := s.pc + BitVec.ofNat 16 len } := by
  subst ha
  exact complete_ok hpc (congrArg Except.ok (State.memWrite_withPc s _ _ _))

/-- The store happens at the old HL and leaves the registers to the step of HL. -/
theorem storeStep_fits {update : Word → Word} (hpc : PcFits s 1) :
    storeStep update s =
      .next { s.memWrite (hl s) s.regs.a with pc := s.pc + 1, regs := withPair s.regs (update (hl s)) .hl } := by
  refine complete_ok hpc (congrArg Except.ok ?_)
  have hea : atPair .hl { s with pc := s.pc + BitVec.ofNat 16 1 } = hl s := atPair_eq_pairOf .hl _
  simp only [hea, State.setPair, State.memWrite_withPc, State.memWrite_regs, Regs.setPair_eq_withPair]
  rfl
end

/-! ## The loads and stores -/

/-- Settles O16: the register gets the operand. -/
theorem loadImmediateByte : Obligations.LoadImmediateByte := by
  intro r n
  refine ⟨decodes_of_encode rfl ?_, fun s hpc => (exec_instr (.ldReg_n8 r n) s).trans (loadImm8_fits hpc)⟩
  cases r <;> rfl

/-- Settles O17: a pair's two registers get the operand's bytes back from the word, and SP gets the word. -/
theorem loadImmediateWord : Obligations.LoadImmediateWord := by
  intro p b1 b2
  refine ⟨decodes_of_encode rfl ?_, fun s hpc => ?_⟩
  · rw [Form.encode, operand16_append]
    cases p <;> rfl
  · refine (exec_instr _ s).trans ((loadImm16_fits hpc).trans ?_)
    rw [← wordOf_append]
    cases p with
    | bc | de | hl =>
      simp only [State.setLoadPair, State.setPair, Regs.setPair_wordOf]
      rfl
    | sp => rfl

/-- Settles O18: the destination gets the source's old value. -/
theorem moveRegister : Obligations.MoveRegister := by
  intro dst src
  refine ⟨decodes_of_encode rfl ?_, fun s hpc => (exec_instr (.ldReg_reg dst src) s).trans (moveReg_fits hpc)⟩
  cases dst <;> cases src <;> rfl

/-- Settles O19: a load from the address in HL. -/
theorem loadFromHL : Obligations.LoadFromHL := by
  intro r
  refine ⟨decodes_of_encode rfl ?_, fun s hpc =>
    (exec_instr (.ldReg_atHL r) s).trans (loadFrom_fits hpc (atPair_eq_pairOf .hl _))⟩
  cases r <;> rfl

/-- Settles O20: a store at the address in HL; the code of (HL) in both fields has no cell in the primary map. -/
theorem storeToHL : Obligations.StoreToHL := by
  refine ⟨fun r => ⟨decodes_of_encode rfl ?_, fun s hpc =>
    (exec_instr (.ldAtHL_reg r) s).trans (storeTo_fits hpc (atPair_eq_pairOf .hl _))⟩, fun _ => rfl⟩
  cases r <;> rfl

/-- Settles O21: stores at the addresses in BC and DE. -/
theorem storeAccumulatorThroughPair : Obligations.StoreAccumulatorThroughPair :=
  ⟨decodes_of_encode (f := .ldAtBC_A) rfl rfl, decodes_of_encode (f := .ldAtDE_A) rfl rfl, fun _ hpc =>
    ⟨storeTo_fits hpc (atPair_eq_pairOf .bc _), storeTo_fits hpc (atPair_eq_pairOf .de _)⟩⟩

/-- Settles O22: loads from the addresses in BC and DE. -/
theorem loadAccumulatorThroughPair : Obligations.LoadAccumulatorThroughPair :=
  ⟨decodes_of_encode (f := .ldA_atBC) rfl rfl, decodes_of_encode (f := .ldA_atDE) rfl rfl, fun _ hpc =>
    ⟨loadFrom_fits hpc (atPair_eq_pairOf .bc _), loadFrom_fits hpc (atPair_eq_pairOf .de _)⟩⟩

/-- Settles O23: the store at the old HL and the step of HL are those of the shared operation. -/
theorem storeAccumulatorAndStepHL : Obligations.StoreAccumulatorAndStepHL :=
  ⟨decodes_of_encode (f := .ldAtHLinc_A) rfl rfl, decodes_of_encode (f := .ldAtHLdec_A) rfl rfl, fun _ hpc =>
    ⟨storeStep_fits (update := (· + 1)) hpc, storeStep_fits (update := (· - 1)) hpc⟩⟩

/-- Settles O24: stores to the high page, at the operand and at C. -/
theorem highPageStores : Obligations.HighPageStores :=
  ⟨fun n => decodes_of_encode (f := .ldhAtN8_A n) rfl rfl, decodes_of_encode (f := .ldAtC_A) rfl rfl,
    fun n _ hpc => storeTo_fits hpc (highPage_eq_append n), fun s hpc => storeTo_fits hpc (highPage_eq_append s.regs.c)⟩

/-- Settles O25: loads from the high page, at the operand and at C. -/
theorem highPageLoads : Obligations.HighPageLoads :=
  ⟨fun n => decodes_of_encode (f := .ldhA_atN8 n) rfl rfl, decodes_of_encode (f := .ldA_atC) rfl rfl,
    fun n _ hpc => loadFrom_fits hpc (highPage_eq_append n), fun s hpc => loadFrom_fits hpc (highPage_eq_append s.regs.c)⟩

/-- Settles O26: a store and a load at the operand, whose bytes are read low byte first. -/
theorem absoluteMoves : Obligations.AbsoluteMoves := by
  intro b1 b2
  have hbytes (op : Byte) : op :: operand16 (b2 ++ b1) = [op, b1, b2] := congrArg (op :: ·) (operand16_append b2 b1)
  exact ⟨decodes_of_encode (f := .ldAtA16_A (b2 ++ b1)) rfl (hbytes 0xEA),
    decodes_of_encode (f := .ldA_atA16 (b2 ++ b1)) rfl (hbytes 0xFA),
    fun _ hpc => ⟨storeTo_fits hpc rfl, loadFrom_fits hpc rfl⟩⟩

end Sys2Proof.Machine
end

