-- ==== Sys2Proof/Proofs/FlagModes.lean ====
section
/-! SUPPORT. The two FLAG_MODEs side by side (41_alu.md R140, R146): an effect whose row of R32 has H and C drawn answers the same
in both but for the two draws, O34, and every other effect carries the mode along unread, O35. -/

namespace Sys2Proof.Machine

open Sys2Proof.Claims (withFlagMode)

/-! ## The state's operations -/

@[simp] theorem withFlagMode_sp (s : State) (m : FlagMode) : (withFlagMode s m).sp = s.sp := rfl
@[simp] theorem withFlagMode_pc (s : State) (m : FlagMode) : (withFlagMode s m).pc = s.pc := rfl
@[simp] theorem withFlagMode_addr (s : State) (m : FlagMode) (v : Int) : (withFlagMode s m).addr v = s.addr v := rfl

@[simp] theorem setLoadPair_withFlagMode (s : State) (m : FlagMode) (p : LoadPair) (v : Word) :
    (withFlagMode s m).setLoadPair p v = withFlagMode (s.setLoadPair p v) m := by
  cases p <;> rfl

@[simp] theorem loadPair_withFlagMode (s : State) (m : FlagMode) (p : LoadPair) :
    (withFlagMode s m).loadPair p = s.loadPair p := by
  cases p <;> rfl

@[simp] theorem memWrite_withFlagMode (s : State) (m : FlagMode) (a : Word) (v : Byte) :
    (withFlagMode s m).memWrite a v = withFlagMode (s.memWrite a v) m := by
  unfold State.memWrite
  split <;> rfl

/-- A push carries the mode along. -/
theorem push16_withFlagMode (v : Word) (s : State) (m : FlagMode) :
    push16 v (withFlagMode s m) = (push16 v s).map (withFlagMode · m) := by
  unfold push16
  simp only [withFlagMode_addr, withFlagMode_sp, memWrite_withFlagMode]
  split
  · rfl
  · split <;> rfl

/-- A pop carries the mode along. -/
theorem pop16_withFlagMode (s : State) (m : FlagMode) :
    pop16 (withFlagMode s m) = (pop16 s).map fun (v, t) => (v, withFlagMode t m) := by
  unfold pop16
  simp only [withFlagMode_addr, withFlagMode_sp]
  split
  · rfl
  · split <;> rfl

/-- A jump carries the mode along. -/
theorem jumpEffect_withFlagMode (taken : Bool) (e : Int) (s : State) (m : FlagMode) :
    formEffect.jumpEffect taken e (withFlagMode s m) = (formEffect.jumpEffect taken e s).map (withFlagMode · m) := by
  unfold formEffect.jumpEffect
  simp only [withFlagMode_addr, withFlagMode_pc]
  split
  · split <;> rfl
  · rfl

/-! ## The instructions whose H and C are drawn -/

/-- A state with the draws of numbers k and k + 1 for its H and C, and the draw counter past them. -/
def withDraws (t : State) (k : Nat) : State :=
  { t with
    flags := { z := t.flags.z, n := t.flags.n, h := Config.draw k, c := Config.draw (k + 1) }
    draws := k + 2 }

/-- An effect whose H and C are drawn completes in both modes, and its answers differ by the mode and the two draws. -/
theorem formEffect_drawn {f : Form} (hf : f.flagRow = .arith ∨ f.flagRow = .step) (s : State) :
    ∃ t, formEffect f (withFlagMode s .hardware) = .ok t ∧
      formEffect f (withFlagMode s .reference) = .ok (withDraws (withFlagMode t .reference) s.draws) := by
  cases f
  case addA_reg | addA_atHL | addA_n8 | subReg | subAtHL | subN8 | cpReg | cpAtHL | cpN8 | incReg | decReg =>
    exact ⟨_, rfl, rfl⟩
  all_goals simp [Form.flagRow] at hf

/-- Settles O34: PC_next fits in both modes or in neither, and the effect's answers differ by the two draws. -/
theorem referenceModeDrawsHAndC : Obligations.ReferenceModeDrawsHAndC := by
  intro i s hrow hpc
  obtain ⟨t, hhw, href⟩ := formEffect_drawn hrow { s with pc := s.pc + BitVec.ofNat 16 i.length }
  exact ⟨t, exec_of_formEffect_ok (s := withFlagMode s .hardware) hpc hhw,
    exec_of_formEffect_ok (s := withFlagMode s .reference) hpc href⟩

/-! ## The other instructions -/

/-- An effect whose H and C are not drawn carries the mode along. -/
theorem formEffect_withFlagMode {f : Form} (harith : f.flagRow ≠ .arith) (hstep : f.flagRow ≠ .step) (s : State)
    (m : FlagMode) : formEffect f (withFlagMode s m) = (formEffect f s).map (withFlagMode · m) := by
  cases f
  case addA_reg | addA_atHL | addA_n8 | subReg | subAtHL | subN8 | cpReg | cpAtHL | cpN8 => exact absurd rfl harith
  case incReg | decReg => exact absurd rfl hstep
  case jr | jrNZ | jrZ => exact jumpEffect_withFlagMode _ _ s m
  case pushPair => exact push16_withFlagMode _ s m
  case call =>
    simp only [formEffect, push16_withFlagMode, withFlagMode_pc]
    cases push16 s.pc s <;> rfl
  case ret | popPair =>
    simp only [formEffect, pop16_withFlagMode]
    cases pop16 s <;> rfl
  case ldPair_n16 | incPair | decPair =>
    simp only [formEffect, setLoadPair_withFlagMode, loadPair_withFlagMode]
    rfl
  case ldAtHL_reg | ldAtBC_A | ldAtDE_A | ldhAtN8_A | ldAtC_A | ldAtA16_A | ldAtHLinc_A | ldAtHLdec_A =>
    simp only [formEffect, memWrite_withFlagMode]
    rfl
  all_goals rfl

/-- An instruction whose effect carries the mode along carries it along, faults included: the record does not hold it. -/
theorem complete_withFlagMode {len : Nat} {effect : Effect} {s t : State} {m : FlagMode}
    (heffect : ∀ u, effect (withFlagMode u m) = (effect u).map (withFlagMode · m))
    (h : s.complete len effect = .next t) : (withFlagMode s m).complete len effect = .next (withFlagMode t m) := by
  unfold State.complete at h ⊢
  rw [withFlagMode_addr, withFlagMode_pc]
  cases haddr : s.addr (s.pc.toNat + len) with
  | error v =>
    rw [haddr] at h
    cases h
    rfl
  | ok pcNext =>
    rw [haddr] at h
    have hmode : effect { withFlagMode s m with pc := pcNext } = (effect { s with pc := pcNext }).map (withFlagMode · m) :=
      heffect { s with pc := pcNext }
    dsimp only at h ⊢
    rw [hmode]
    cases hanswer : effect { s with pc := pcNext } with
    | error v | ok u =>
      rw [hanswer] at h
      cases h
      rfl

/-- Settles O35: the mode is carried along unread. -/
theorem otherInstructionsIgnoreFlagMode : Obligations.OtherInstructionsIgnoreFlagMode := by
  intro i s t harith hstep h
  rw [exec_eq] at h ⊢
  exact complete_withFlagMode (s := withFlagMode s .hardware) (fun u => formEffect_withFlagMode harith hstep u .reference) h

end Sys2Proof.Machine
end

