-- ==== Sys2Proof/Proofs/Arithmetic.lean ====
section
/-! SUPPORT. The four flag functions in words, what each shared operation of the arithmetic answers when PC_next fits, and O27 to
O33, the arithmetic (41_alu.md R141 to R160). -/

namespace Sys2Proof.Machine

open Sys2Proof.Claims

/-! ## The flag functions (R142 to R145) -/

/-- The byte of a number reduced mod 256, by the number of the byte it is. -/
theorem ofNat_mod_eq {n : Nat} {v : Byte} (h : n % 256 = v.toNat) : BitVec.ofNat 8 (n % 256) = v := by
  rw [h, BitVec.ofNat_toNat, BitVec.setWidth_eq]

theorem add8_result (a b : Byte) : (add8 a b).result = a + b :=
  ofNat_mod_eq (BitVec.toNat_add a b).symm

theorem sub8_result (a b : Byte) : (sub8 a b).result = a - b := by
  refine ofNat_mod_eq ?_
  have hb := b.isLt
  rw [BitVec.toNat_sub]
  omega

theorem inc8_result (v : Byte) (c : Bool) : (inc8 v c).result = v + 1 :=
  ofNat_mod_eq (BitVec.toNat_add v 1).symm

theorem dec8_result (v : Byte) (c : Bool) : (dec8 v c).result = v - 1 := by
  refine ofNat_mod_eq ?_
  rw [Nat.add_comm, BitVec.toNat_sub]
  rfl

theorem add8_z_iff (a b : Byte) : (add8 a b).flags.z = true ↔ (a.toNat + b.toNat) % 256 = 0 := by
  have hz : (add8 a b).flags.z = true ↔ (add8 a b).result = 0 := beq_iff_eq
  rw [hz, add8_result, ← BitVec.toNat_inj, BitVec.toNat_add]
  rfl

theorem sub8_z_iff (a b : Byte) : (sub8 a b).flags.z = true ↔ a = b := by
  have hz : (sub8 a b).flags.z = true ↔ (sub8 a b).result = 0 := beq_iff_eq
  rw [hz, sub8_result, sub_eq_zero]

theorem inc8_z_iff (v : Byte) (c : Bool) : (inc8 v c).flags.z = true ↔ v = 0xFF := by
  have hz : (inc8 v c).flags.z = true ↔ (inc8 v c).result = 0 := beq_iff_eq
  rw [hz, inc8_result, add_eq_zero_iff_eq_neg]
  rfl

theorem dec8_z_iff (v : Byte) (c : Bool) : (dec8 v c).flags.z = true ↔ v = 1 := by
  have hz : (dec8 v c).flags.z = true ↔ (dec8 v c).result = 0 := beq_iff_eq
  rw [hz, dec8_result, sub_eq_zero]

theorem add8_h_iff (a b : Byte) : (add8 a b).flags.h = true ↔ 0xF < (a &&& 0xF).toNat + (b &&& 0xF).toNat := by
  rw [lowNibble_toNat, lowNibble_toNat]
  exact decide_eq_true_iff

theorem sub8_h_iff (a b : Byte) : (sub8 a b).flags.h = true ↔ (a &&& 0xF).toNat < (b &&& 0xF).toNat := by
  rw [lowNibble_toNat, lowNibble_toNat]
  exact decide_eq_true_iff

theorem inc8_h_iff (v : Byte) (c : Bool) : (inc8 v c).flags.h = true ↔ v &&& 0xF = 0xF := by
  rw [← BitVec.toNat_inj, lowNibble_toNat]
  exact decide_eq_true_iff

theorem dec8_h_iff (v : Byte) (c : Bool) : (dec8 v c).flags.h = true ↔ v &&& 0xF = 0 := by
  rw [← BitVec.toNat_inj, lowNibble_toNat]
  exact decide_eq_true_iff

/-- Settles O27: Z is read off the result, and H and C compare low nibbles and whole bytes as numbers. -/
theorem flagFunctions : Obligations.FlagFunctions :=
  ⟨fun a b => ⟨add8_result a b, add8_z_iff a b, rfl, add8_h_iff a b, decide_eq_true_iff⟩,
    fun a b => ⟨sub8_result a b, sub8_z_iff a b, rfl, sub8_h_iff a b, decide_eq_true_iff⟩,
    fun v c => ⟨inc8_result v c, inc8_z_iff v c, rfl, inc8_h_iff v c, rfl⟩,
    fun v c => ⟨dec8_result v c, dec8_z_iff v c, rfl, dec8_h_iff v c, rfl⟩⟩

/-! ## The shared operations -/

/-- The operand s does not depend on PC. -/
theorem source_withPc (s : State) (w : Word) (src : Source) : State.source { s with pc := w } src = s.source src := by
  cases src <;> rfl

/-- The operand (HL) is the byte at the address in HL. -/
theorem source_atHL (s : State) : s.source .atHL = s.memRead (hl s) :=
  congrArg s.memRead (atPair_eq_pairOf .hl s)

section
variable {s : State} {len : Nat} {src : Source} {v : Byte}

/-- ADD A,s changes A, the flags and PC alone. -/
theorem addA_fits (hpc : PcFits s len) (hv : s.source src = v) :
    addA len src s =
      .next ({ s with
        pc := s.pc + BitVec.ofNat 16 len, regs := s.regs.set .a (add8 s.regs.a v).result }.writeFlags
          (add8 s.regs.a v).flags) := by
  refine complete_ok hpc ?_
  simp only [source_withPc, hv]
  rfl

/-- SUB s changes A, the flags and PC alone. -/
theorem subA_fits (hpc : PcFits s len) (hv : s.source src = v) :
    subA len src s =
      .next ({ s with
        pc := s.pc + BitVec.ofNat 16 len, regs := s.regs.set .a (sub8 s.regs.a v).result }.writeFlags
          (sub8 s.regs.a v).flags) := by
  refine complete_ok hpc ?_
  simp only [source_withPc, hv]
  rfl

/-- CP s changes the flags and PC alone. -/
theorem cpA_fits (hpc : PcFits s len) (hv : s.source src = v) :
    cpA len src s =
      .next ({ s with pc := s.pc + BitVec.ofNat 16 len }.writeFlags (sub8 s.regs.a v).flags) := by
  refine complete_ok hpc ?_
  simp only [source_withPc, hv]
  rfl

/-- INC r changes r, the flags and PC alone. -/
theorem incReg_fits {r : Reg} (hpc : PcFits s 1) :
    incReg r s =
      .next ({ s with pc := s.pc + 1, regs := s.regs.set r (inc8 (s.regs.get r) s.flags.c).result }.writeFlags
        (inc8 (s.regs.get r) s.flags.c).flags) :=
  complete_ok hpc rfl

/-- DEC r changes r, the flags and PC alone. -/
theorem decReg_fits {r : Reg} (hpc : PcFits s 1) :
    decReg r s =
      .next ({ s with pc := s.pc + 1, regs := s.regs.set r (dec8 (s.regs.get r) s.flags.c).result }.writeFlags
        (dec8 (s.regs.get r) s.flags.c).flags) :=
  complete_ok hpc rfl
end

/-- The step of a pair at PC_next, with the pair's word and its two registers as bytes side by side. -/
theorem State.setPair_update (s : State) (w : Word) (p : RegPair) (update : Word → Word) :
    State.setPair { s with pc := w } p (update (s.regs.pair p)) =
      { s with pc := w, regs := withPair s.regs (update (pairOf s p)) p } := by
  have hpair : s.regs.pair p = pairOf s p := atPair_eq_pairOf p s
  rw [hpair, State.setPair, Regs.setPair_eq_withPair]

/-! ## The instructions -/

/-- Settles O28: the operand is a register's byte, the byte at HL or the immediate. -/
theorem addToAccumulator : Obligations.AddToAccumulator :=
  ⟨fun r => ⟨decodes_of_encode rfl (by cases r <;> rfl), fun s hpc =>
      (exec_instr (.addA_reg r) s).trans (addA_fits hpc rfl)⟩,
    ⟨decodes_of_encode (f := .addA_atHL) rfl rfl, fun s hpc => addA_fits hpc (source_atHL s)⟩,
    fun n => ⟨decodes_of_encode (f := .addA_n8 n) rfl rfl, fun _ hpc => addA_fits hpc rfl⟩⟩

/-- Settles O29: the operand is a register's byte, the byte at HL or the immediate. -/
theorem subtractFromAccumulator : Obligations.SubtractFromAccumulator :=
  ⟨fun r => ⟨decodes_of_encode rfl (by cases r <;> rfl), fun s hpc =>
      (exec_instr (.subReg r) s).trans (subA_fits hpc rfl)⟩,
    ⟨decodes_of_encode (f := .subAtHL) rfl rfl, fun s hpc => subA_fits hpc (source_atHL s)⟩,
    fun n => ⟨decodes_of_encode (f := .subN8 n) rfl rfl, fun _ hpc => subA_fits hpc rfl⟩⟩

/-- Settles O30: the operand is a register's byte, the byte at HL or the immediate. -/
theorem compareWithAccumulator : Obligations.CompareWithAccumulator :=
  ⟨fun r => ⟨decodes_of_encode rfl (by cases r <;> rfl), fun s hpc =>
      (exec_instr (.cpReg r) s).trans (cpA_fits hpc rfl)⟩,
    ⟨decodes_of_encode (f := .cpAtHL) rfl rfl, fun s hpc => cpA_fits hpc (source_atHL s)⟩,
    fun n => ⟨decodes_of_encode (f := .cpN8 n) rfl rfl, fun _ hpc => cpA_fits hpc rfl⟩⟩

/-- Settles O31: the other XOR bytes have no cell in the primary map. -/
theorem xorAClearsAccumulator : Obligations.XorAClearsAccumulator := by
  refine ⟨decodes_of_encode (f := .xorA) rfl rfl, fun op hop rest => ?_, fun _ hpc =>
    exec_of_formEffect_ok (i := .xorA) hpc rfl⟩
  rcases hop with ⟨hlo, hhi⟩ | rfl
  · interval_cases op <;> rfl
  · rfl

/-- Settles O32: the register's byte and C go through inc8 or dec8. -/
theorem incrementDecrementRegister : Obligations.IncrementDecrementRegister := fun r =>
  ⟨decodes_of_encode rfl (by cases r <;> rfl), decodes_of_encode rfl (by cases r <;> rfl), fun s hpc =>
    ⟨(exec_instr (.incReg r) s).trans (incReg_fits hpc), (exec_instr (.decReg r) s).trans (decReg_fits hpc)⟩⟩

/-- Settles O33: a pair steps as a word and is written back by its two bytes, and SP steps itself. -/
theorem incrementDecrementPair : Obligations.IncrementDecrementPair := by
  refine ⟨fun p => ⟨decodes_of_encode rfl (by cases p <;> rfl), decodes_of_encode rfl (by cases p <;> rfl)⟩,
    fun s hpc => ?_⟩
  have hinc (p : RegPair) := congrArg (@Except.ok Int State) (s.setPair_update (s.pc + 1) p (· + 1))
  have hdec (p : RegPair) := congrArg (@Except.ok Int State) (s.setPair_update (s.pc + 1) p (· - 1))
  exact ⟨⟨exec_of_formEffect_ok (i := .incBC) hpc (hinc .bc), exec_of_formEffect_ok (i := .incDE) hpc (hinc .de),
      exec_of_formEffect_ok (i := .incHL) hpc (hinc .hl), exec_of_formEffect_ok (i := .incSP) hpc rfl⟩,
    exec_of_formEffect_ok (i := .decBC) hpc (hdec .bc), exec_of_formEffect_ok (i := .decDE) hpc (hdec .de),
      exec_of_formEffect_ok (i := .decHL) hpc (hdec .hl), exec_of_formEffect_ok (i := .decSP) hpc rfl⟩

end Sys2Proof.Machine
end

