-- ==== Sys2Proof/Proofs/Jumps.lean ====
section
/-! SUPPORT. PC_next and a jump's target as checked addresses, what a relative jump answers by whether it is taken and fits, and
O36 and O37, the relative jumps (42_control_stack.md R174 to R176). -/

namespace Sys2Proof.Machine

open Sys2Proof.Claims

section
variable {s : State}

/-! ## Checked addresses -/

/-- The checked address of a word plus an integer offset. -/
theorem State.addr_offset {w : Word} {e : Int}
    (h : s.cfg.edgeMode = .wrap ∨ (0 ≤ (w.toNat : Int) + e ∧ (w.toNat : Int) + e ≤ 0xFFFF)) :
    s.addr (w.toNat + e) = .ok (w + BitVec.ofInt 16 e) := by
  rw [State.addr, edgeAddr_ok h, ofInt_toNat_add]

/-- Where EDGE_MODE does not wrap, it faults. -/
theorem edgeMode_fault_of_ne_wrap (h : s.cfg.edgeMode ≠ .wrap) : s.cfg.edgeMode = .fault := by
  cases hm : s.cfg.edgeMode with
  | wrap => exact absurd hm h
  | fault => rfl

/-- A PC_next that fits without wrapping is PC plus the length, as numbers. -/
theorem pcNext_toNat {len : Nat} (hm : s.cfg.edgeMode ≠ .wrap) (hpc : PcFits s len) :
    (s.pc + BitVec.ofNat 16 len).toNat = s.pc.toNat + len := by
  have hle := hpc.resolve_left hm
  rw [BitVec.toNat_add, BitVec.toNat_ofNat]
  omega

/-- An effect that refuses after a PC_next that fits is an EdgeFault taken in the state before the instruction. -/
theorem complete_error {len : Nat} {effect : Effect} {v : Int} (hpc : PcFits s len)
    (he : effect { s with pc := s.pc + BitVec.ofNat 16 len } = .error v) :
    s.complete len effect = .next (s.takeFault (.edgeFault v)) := by
  rw [complete_fits hpc, he]

/-! ## The shared operation -/

variable {e : Int}

/-- The target of a jump, computed at PC_next, is an address when it fits. -/
theorem addr_target (hpc : PcFits s 2) (htarget : TargetFits s e) :
    s.addr ((s.pc + 2).toNat + e) = .ok (s.pc + 2 + BitVec.ofInt 16 e) := by
  by_cases hm : s.cfg.edgeMode = .wrap
  · exact State.addr_offset (.inl hm)
  · have hnext : (s.pc + 2).toNat = s.pc.toNat + 2 := pcNext_toNat hm hpc
    have hin := htarget.resolve_left hm
    exact State.addr_offset (.inr (by omega))

/-- The target of a jump that does not fit is refused with the integer it is. -/
theorem addr_target_error (hpc : PcFits s 2) (htarget : ¬ TargetFits s e) :
    s.addr ((s.pc + 2).toNat + e) = .error (s.pc.toNat + 2 + e) := by
  obtain ⟨hm, hout⟩ := not_or.1 htarget
  have hnext : (s.pc + 2).toNat = s.pc.toNat + 2 := pcNext_toNat hm hpc
  rw [hnext, State.addr, edgeMode_fault_of_ne_wrap hm]
  exact edgeAddr_error hout

variable {taken : Flags → Bool}

/-- A jump that is taken to a target that fits changes PC alone. -/
theorem jumpIf_taken (hpc : PcFits s 2) (ht : taken s.flags = true) (htarget : TargetFits s e) :
    jumpIf taken e s = .next { s with pc := s.pc + 2 + BitVec.ofInt 16 e } := by
  have haddr : State.addr { s with pc := s.pc + BitVec.ofNat 16 2 } ((s.pc + BitVec.ofNat 16 2).toNat + e) = _ :=
    addr_target hpc htarget
  refine complete_ok hpc ?_
  simp only [ht, if_true, haddr]

/-- A jump that is taken to a target that does not fit is the EdgeFault of the target. -/
theorem jumpIf_taken_edge (hpc : PcFits s 2) (ht : taken s.flags = true) (htarget : ¬ TargetFits s e) :
    jumpIf taken e s = .next (s.takeFault (.edgeFault (s.pc.toNat + 2 + e))) := by
  have haddr : State.addr { s with pc := s.pc + BitVec.ofNat 16 2 } ((s.pc + BitVec.ofNat 16 2).toNat + e) = _ :=
    addr_target_error hpc htarget
  refine complete_error hpc ?_
  simp only [ht, if_true, haddr]

/-- A jump that is not taken goes on at PC_next, whatever its target. -/
theorem jumpIf_notTaken (hpc : PcFits s 2) (ht : taken s.flags = false) :
    jumpIf taken e s = .next { s with pc := s.pc + 2 } :=
  complete_ok hpc (if_neg (ne_true_of_eq_false ht))
end

/-! ## The jumps -/

/-- An opcode byte and a displacement byte decode to the form's instruction of that byte in two's complement. -/
theorem decodes_of_displacement {op : Byte} {f : Int → Form} (hwf : ∀ e, (f e).wellFormed = displacementFits e)
    (henc : ∀ e, (f e).encode = [op, displacementByte e]) (b : Byte) : Decodes [op, b] (f b.toInt).instr := by
  rw [← sext_eq_toInt]
  refine decodes_of_encode ((hwf _).trans (displacementFits_sext b)) ?_
  rw [henc, displacementByte_sext]

/-- Settles O36: a jump that is always taken. -/
theorem jumpRelative : Obligations.JumpRelative :=
  ⟨decodes_of_displacement (f := .jr) (fun _ => rfl) (fun _ => rfl),
    fun _ _ hpc => jumpIf_taken (taken := fun _ => true) hpc rfl,
    fun _ _ hpc => jumpIf_taken_edge (taken := fun _ => true) hpc rfl⟩

/-- Settles O37: jumps taken on Z and on its negation. -/
theorem jumpRelativeOnZero : Obligations.JumpRelativeOnZero := by
  refine ⟨fun b => ⟨?_, ?_⟩, fun e s hpc => ⟨fun hz => ?_, jumpIf_notTaken hpc⟩,
    fun e s hpc htarget => ⟨fun hz => ?_, fun hz => jumpIf_taken hpc hz htarget⟩,
    fun e s hpc htarget => ⟨fun hz => ?_, fun hz => jumpIf_taken_edge hpc hz htarget⟩⟩
  · exact decodes_of_displacement (f := .jrNZ) (fun _ => rfl) (fun _ => rfl) b
  · exact decodes_of_displacement (f := .jrZ) (fun _ => rfl) (fun _ => rfl) b
  · exact jumpIf_notTaken (taken := fun f => !f.z) hpc (congrArg not hz)
  · exact jumpIf_taken (taken := fun f => !f.z) hpc (congrArg not hz) htarget
  · exact jumpIf_taken_edge (taken := fun f => !f.z) hpc (congrArg not hz) htarget

end Sys2Proof.Machine
end

