-- ==== Sys2Proof/Proofs/Stack.lean ====
section
/-! SUPPORT. The state a push leaves and the word a pop reads, what each stack instruction answers when its addresses fit and when
they do not, and O38 to O43, the stack (42_control_stack.md R170 to R173, R177 to R180). -/

namespace Sys2Proof.Machine

open Sys2Proof.Claims

/-! ## Pushes and pops (R170, R171) -/

/-- The state a push of a word leaves when its addresses fit: high byte at SP, low byte at SP - 1, SP down by 2. -/
def pushed (v : Word) (s : State) : State :=
  { (s.memWrite s.sp (hi v)).memWrite (s.sp - 1) (lo v) with sp := s.sp - 2 }

/-- The word a pop reads when its addresses fit: high byte at SP + 2, low byte at SP + 1. -/
def popped (s : State) : Word := s.memRead (s.sp + 2) ++ s.memRead (s.sp + 1)

/-- A push does not see PC. -/
theorem pushed_withPc (v : Word) (s : State) (w : Word) : pushed v { s with pc := w } = { pushed v s with pc := w } := by
  simp only [pushed, State.memWrite_withPc]

/-- A push leaves EDGE_MODE. -/
theorem pushed_edgeMode (v : Word) (s : State) : (pushed v s).cfg.edgeMode = s.cfg.edgeMode := by
  rw [pushed, State.memWrite_cfg, State.memWrite_cfg]

section
variable {s : State} {v : Word}

theorem push16_eq_pushed (h : PushFits s) : push16 v s = .ok (pushed v s) := by
  rw [push16_ok h, hiByte_eq, loByte_eq]
  rfl

theorem push16_edge (h : ¬ PushFits s) : push16 v s = .error (-1) := by
  rcases push16_cases v s with ⟨hfit, _⟩ | ⟨_, _, herr⟩
  · exact absurd hfit h
  · exact herr

theorem pop16_eq_popped (h : PopFits s) : pop16 s = .ok (popped s, { s with sp := s.sp + 2 }) := by
  rw [pop16_ok h, wordOf_append]
  rfl

theorem pop16_edge (h : ¬ PopFits s) : pop16 s = .error 0x10000 := by
  rcases pop16_cases s with ⟨hfit, _⟩ | ⟨_, _, herr⟩
  · exact absurd hfit h
  · exact herr

end

/-- Settles O38: the state pushed and the word popped, and the refusals. -/
theorem stackDiscipline : Obligations.StackDiscipline :=
  ⟨fun _ _ => push16_eq_pushed, fun _ _ => push16_edge, fun _ => pop16_eq_popped, fun _ => pop16_edge⟩

/-! ## The stack instructions -/

section
variable {s : State} {p : RegPair} {a : Word}

/-- PUSH pushes its pair and changes PC beside. -/
theorem pushPair_fits (hpc : PcFits s 1) (h : PushFits s) :
    pushPair p s = .next { pushed (pairOf s p) s with pc := s.pc + 1 } := by
  refine complete_ok hpc ?_
  have hpair : s.regs.pair p = pairOf s p := atPair_eq_pairOf p s
  rw [push16_eq_pushed, pushed_withPc, hpair]
  · rfl
  · exact h

/-- A PUSH at SP 0 or 1 in EDGE_MODE = fault (R173). -/
theorem pushPair_edge (hpc : PcFits s 1) (h : ¬ PushFits s) :
    pushPair p s = .next (s.takeFault (.edgeFault (-1))) :=
  complete_error hpc (push16_edge (s := { s with pc := _ }) h)

/-- POP loads its pair with the word popped and changes SP and PC beside. -/
theorem popPair_fits (hpc : PcFits s 1) (h : PopFits s) :
    popPair p s = .next { s with pc := s.pc + 1, sp := s.sp + 2, regs := withPair s.regs (popped s) p } := by
  refine complete_ok hpc ?_
  rw [pop16_eq_popped, ← Regs.setPair_eq_withPair]
  · rfl
  · exact h

/-- A POP at SP 0xFFFE or 0xFFFF in EDGE_MODE = fault (R173). -/
theorem popPair_edge (hpc : PcFits s 1) (h : ¬ PopFits s) :
    popPair p s = .next (s.takeFault (.edgeFault 0x10000)) := by
  refine complete_error hpc ?_
  rw [pop16_edge]
  exact h

/-- CALL pushes PC_next and jumps to its target. -/
theorem execCall_fits (hpc : PcFits s 3) (h : PushFits s) :
    execCall a s = .next { pushed (s.pc + 3) s with pc := a } := by
  refine complete_ok hpc ?_
  rw [push16_eq_pushed, pushed_withPc]
  · rfl
  · exact h

/-- A CALL at SP 0 or 1 in EDGE_MODE = fault (R173). -/
theorem execCall_edge (hpc : PcFits s 3) (h : ¬ PushFits s) :
    execCall a s = .next (s.takeFault (.edgeFault (-1))) := by
  refine complete_error hpc ?_
  rw [push16_edge]
  exact h

/-- RET jumps to the word popped and changes SP beside. -/
theorem execRet_fits (hpc : PcFits s 1) (h : PopFits s) :
    execRet s = .next { s with sp := s.sp + 2, pc := popped s } := by
  refine complete_ok hpc ?_
  rw [pop16_eq_popped]
  · rfl
  · exact h

/-- A RET at SP 0xFFFE or 0xFFFF in EDGE_MODE = fault (R173). -/
theorem execRet_edge (hpc : PcFits s 1) (h : ¬ PopFits s) :
    execRet s = .next (s.takeFault (.edgeFault 0x10000)) := by
  refine complete_error hpc ?_
  rw [pop16_edge]
  exact h
end

/-- Settles O39: PC_next is pushed and the target, whose bytes are read low byte first, becomes PC. -/
theorem callPushesReturnAddress : Obligations.CallPushesReturnAddress := fun b1 b2 =>
  ⟨decodes_of_encode (f := .call (b2 ++ b1)) rfl (congrArg (0xCD :: ·) (operand16_append b2 b1)), fun _ => execCall_fits⟩

/-- Settles O40: the word popped becomes PC; the other bytes have no cell in the primary map. -/
theorem returnPopsPc : Obligations.ReturnPopsPc := by
  refine ⟨decodes_of_encode (f := .ret) rfl rfl, fun _ => execRet_fits, fun _ => execRet_edge, fun op hop rest => ?_⟩
  simp only [List.mem_cons, List.not_mem_nil, or_false] at hop
  rcases hop with rfl | rfl | rfl | rfl | rfl <;> rfl

/-- Settles O41: the pair is pushed, and loaded with the word popped. -/
theorem pushAndPopPair : Obligations.PushAndPopPair := fun p =>
  ⟨decodes_of_encode rfl (by cases p <;> rfl), decodes_of_encode rfl (by cases p <;> rfl),
    fun s hpc h => (exec_instr (.pushPair p) s).trans (pushPair_fits hpc h),
    fun s hpc h => (exec_instr (.popPair p) s).trans (popPair_fits hpc h)⟩

/-- Settles O42: at SP 0 and 1 no push fits, and at SP 0xFFFE and 0xFFFF no pop. -/
theorem stackEdgeFaults : Obligations.StackEdgeFaults := by
  intro s hm
  have hwrap : s.cfg.edgeMode ≠ .wrap := by simp [hm]
  refine ⟨fun hsp => ?_, fun hsp hpc => ?_⟩
  · have hpush : ¬ PushFits s := not_or.2 ⟨hwrap, by omega⟩
    exact ⟨fun hpc p => (exec_instr (.pushPair p) s).trans (pushPair_edge hpc hpush), fun hpc _ => execCall_edge hpc hpush⟩
  · have hpop : ¬ PopFits s := not_or.2 ⟨hwrap, by omega⟩
    exact ⟨fun p => (exec_instr (.popPair p) s).trans (popPair_edge hpc hpop), execRet_edge hpc hpop⟩

/-! ## A pop after a push (R172) -/

/-- A word is its high and low bytes side by side. -/
theorem hi_append_lo (v : Word) : hi v ++ lo v = v := by
  have h := wordOf_hiByte_loByte v
  rwa [hiByte_eq, loByte_eq, wordOf_append] at h

/-- A pair just written holds the word written. -/
theorem pairOf_withPair (s : State) (v : Word) (p : RegPair) : pairOf { s with regs := withPair s.regs v p } p = v := by
  cases p <;> exact hi_append_lo v

/-- The low byte a pop reads after a push is the one the push wrote. -/
theorem sub_two_add_one (w : Word) : w - 2 + 1 = w - 1 := by
  bv_omega

section
variable {s : State}

/-- After a push whose two cells are not LY, the word popped is the word pushed. -/
theorem popped_pushed (hhi : s.sp ≠ lyAddr) (hlo : s.sp - 1 ≠ lyAddr) (v w : Word) :
    popped { pushed v s with pc := w } = v := by
  have hne : s.sp ≠ s.sp - 1 := by bv_omega
  calc
    popped { pushed v s with pc := w } = (pushed v s).memRead (s.sp - 2 + 2) ++ (pushed v s).memRead (s.sp - 2 + 1) := rfl
    _ = ((s.memWrite s.sp (hi v)).memWrite (s.sp - 1) (lo v)).memRead s.sp ++
        ((s.memWrite s.sp (hi v)).memWrite (s.sp - 1) (lo v)).memRead (s.sp - 1) := by
      rw [sub_add_cancel, sub_two_add_one]
      rfl
    _ = hi v ++ lo v := by simp only [State.memRead_memWrite, hhi, hlo, hne, if_false, if_true]
    _ = v := hi_append_lo v

/-- After a push that fits, a pop fits. -/
theorem popFits_pushed (h : PushFits s) (v w : Word) : PopFits { pushed v s with pc := w } := by
  refine h.imp (fun hm => (pushed_edgeMode v s).trans hm) fun hsp => ?_
  show (s.sp - 2).toNat ≤ 0xFFFD
  bv_omega

/-- When the PC_next of two instructions in a row fits, so does that of the second. -/
theorem pcFits_one_pushed (hpc : PcFits s 2) (v : Word) : PcFits { pushed v s with pc := s.pc + 1 } 1 := by
  refine hpc.imp (fun hm => (pushed_edgeMode v s).trans hm) fun hle => ?_
  show (s.pc + 1).toNat + 1 ≤ 0xFFFF
  bv_omega
end

/-- Settles O43: the pop reads the two cells the push wrote. -/
theorem popUndoesPush : Obligations.PopUndoesPush := by
  intro s hfit hhi hlo
  refine ⟨fun p q hpc => ?_, fun a hpc ha => ?_⟩
  · have hpush := (exec_instr (.pushPair p) s).trans (pushPair_fits (hpc.imp id (by omega)) hfit)
    have hpop := (exec_instr (.popPair q) _).trans
      (popPair_fits (pcFits_one_pushed hpc (pairOf s p)) (popFits_pushed hfit _ _))
    rw [popped_pushed hhi hlo] at hpop
    exact ⟨_, _, hpush, hpop, pairOf_withPair _ _ q, sub_add_cancel s.sp 2⟩
  · have hpcRet : PcFits { pushed (s.pc + 3) s with pc := a } 1 :=
      ha.imp (fun hm => (pushed_edgeMode _ s).trans hm) id
    have hret := execRet_fits hpcRet (popFits_pushed hfit _ _)
    rw [popped_pushed hhi hlo] at hret
    exact ⟨_, _, execCall_fits hpc hfit, hret, rfl, sub_add_cancel s.sp 2⟩

end Sys2Proof.Machine
end

