-- ==== Sys2Proof/Proofs/RotateBit.lean ====
section
/-! SUPPORT. The rotated byte and a byte's bit in the words of bit vectors, what a rotate and a bit test answer when PC_next fits,
and O44 and O45, the rotates and the bit test (43_rotate_bit.md R190 to R192). -/

namespace Sys2Proof.Machine

open Sys2Proof.Claims

/-! ## Bits of a byte -/

/-- Bit k read by dividing the byte's number is bit k of the bit vector. -/
theorem bitOf_eq_getLsbD (v : Byte) (k : Nat) : bitOf v k = v.getLsbD k :=
  Nat.testBit_eq_decide_div_mod_eq.symm

/-- Doubling a byte's number, adding C and reducing mod 256 appends C below the byte's low seven bits. -/
theorem rotateLeft_eq_shiftConcat (old : Byte) (c : Bool) : rotateLeft old c = old.shiftConcat c := by
  refine ofNat_mod_eq ?_
  rw [BitVec.toNat_shiftConcat, Nat.shiftLeft_eq, bit_eq_toNat]

/-- Appending a bit is shifting left by one and setting bit 0 to it. -/
theorem shiftConcat_eq_shiftLeft_or (v : Byte) (c : Bool) : v.shiftConcat c = (v <<< 1) ||| (if c then 1 else 0) := by
  ext k hk
  rw [BitVec.getElem_shiftConcat]
  cases k with
  | zero => cases c <;> simp
  | succ j => cases c <;> simp

/-- The byte a rotate leaves (R190, R191). -/
theorem rotateLeft_eq_shiftLeft_or (old : Byte) (c : Bool) : rotateLeft old c = (old <<< 1) ||| (if c then 1 else 0) :=
  (rotateLeft_eq_shiftConcat old c).trans (shiftConcat_eq_shiftLeft_or old c)

/-! ## The instructions -/

section
variable {s : State} {r : Reg}

/-- RLA changes A, the flags and PC alone. -/
theorem execRla_fits (hpc : PcFits s 1) :
    execRla s =
      .next { s with
        pc := s.pc + 1
        regs := s.regs.set .a (rotateLeft s.regs.a s.flags.c)
        flags := { z := false, n := false, h := false, c := bitOf s.regs.a 7 } } :=
  complete_ok hpc rfl

/-- RL r changes r, the flags and PC alone. -/
theorem rotateReg_fits (hpc : PcFits s 2) :
    rotateReg r s =
      .next { s with
        pc := s.pc + 2
        regs := s.regs.set r (rotateLeft (s.regs.get r) s.flags.c)
        flags :=
          { z := rotateLeft (s.regs.get r) s.flags.c == 0, n := false, h := false, c := bitOf (s.regs.get r) 7 } } :=
  complete_ok hpc rfl

/-- BIT b,r changes the flags and PC alone. -/
theorem testBit_fits {b : Fin 8} (hpc : PcFits s 2) :
    testBit b r s =
      .next { s with
        pc := s.pc + 2
        flags := { z := !bitOf (s.regs.get r) b.val, n := false, h := true, c := s.flags.c } } :=
  complete_ok hpc rfl
end

/-- Settles O44: the byte and C rotate as one; RLA and RL r differ in Z and in the length. -/
theorem rotateLeftThroughCarry : Obligations.RotateLeftThroughCarry := by
  refine ⟨⟨decodes_of_encode (f := .rla) rfl rfl, fun s hpc => ?_⟩,
    fun r => ⟨decodes_of_encode rfl (by cases r <;> rfl), fun s hpc => ?_⟩⟩
  · rw [← bitOf_eq_getLsbD, ← rotateLeft_eq_shiftLeft_or]
    exact execRla_fits hpc
  · rw [← bitOf_eq_getLsbD, ← rotateLeft_eq_shiftLeft_or, exec_instr]
    exact rotateReg_fits hpc

/-- The opcode byte of BIT b,r, its fields x, y, z side by side, is the number 0x40 + 8 * b + r (R84). -/
theorem bitReg_opcode (b : Fin 8) (r : Reg) :
    fieldsXYZ 0b01 (BitVec.ofNat 3 b.val) r.code = byte (0x40 + 8 * b.val + code r) := by
  revert b
  cases r <;> decide

/-- Settles O45: the tested bit alone decides Z. -/
theorem testBitSetsZero : Obligations.TestBitSetsZero := by
  refine fun b r => ⟨decodes_of_encode rfl (congrArg ([0xCB, ·]) (bitReg_opcode b r)), fun s hpc => ?_⟩
  rw [← bitOf_eq_getLsbD, exec_instr]
  exact testBit_fits hpc

end Sys2Proof.Machine
end

