-- ==== Sys2Proof/Proofs/GraphicsPixels.lean ====
section
/-! SUPPORT. The pixel each stage of the graphics pipeline computes, and O53 and O54: the tile decoder and the
background in closed form (50_graphics.md R202, R205 to R207, R209). -/

namespace Sys2Proof.Machine

/-! ## Pixels of a grid -/

/-- A grid's pixel is its function's value there. -/
theorem Grid.getElem_ofFn {w h : Nat} (f : Fin w → Fin h → Pixel) {x y : Nat} (hx : x < w) (hy : y < h) :
    (Grid.ofFn f)[x][y] = f ⟨x, hx⟩ ⟨y, hy⟩ := by
  simp only [Grid.ofFn, Vector.getElem_ofFn]

/-- A color index is below 4, so its number is the planes' sum itself. -/
theorem colorIndex_toNat (p0 p1 : Byte) (b : Nat) :
    (colorIndex p0 p1 b).toNat = 2 * (p1.getLsbD b).toNat + (p0.getLsbD b).toNat := by
  have h0 := (p0.getLsbD b).toNat_lt
  have h1 := (p1.getLsbD b).toNat_lt
  simp only [colorIndex, bitOf_eq_getLsbD, bit_eq_toNat, BitVec.toNat_ofNat]
  omega

/-! ## The tile decoder and the background -/

/-- Settles O53: row r is two bytes, and column c is their bit 7 - c. -/
theorem tileDecoderPixels : Obligations.TileDecoderPixels := by
  intro m base c r hc hr
  rw [decodeTile, Grid.getElem_ofFn, colorIndex_toNat]
  rfl

/-- A background pixel is a pixel of the tile its map cell names (R207). -/
theorem compose_getElem (m : Memory) {x y : Nat} (hx : x < 256) (hy : y < 256) :
    (compose m)[x][y] = (tileOf m (tileIndex m (x / 8) (y / 8)))[x % 8][y % 8] := by
  simp only [compose, Grid.getElem_ofFn, mapTiles, Vector.getElem_ofFn]

/-- Settles O54: the pixel of the named tile, whose base is 16 * idx above the tile data's. -/
theorem backgroundClosedForm : Obligations.BackgroundClosedForm := by
  rintro m x y hx hy idx rfl
  rw [compose_getElem m hx hy, tileOf, tileDecoderPixels, Nat.mul_comm _ 16]
  rfl

/-! ## The viewport -/

/-- A frame pixel is the background pixel at the scrolled place (R209). -/
theorem viewport_getElem (bg : Background) (scx scy : Byte) {x y : Nat} (hx : x < 160) (hy : y < 144) :
    (viewport bg scx scy)[x][y] =
      (bg[(scx.toNat + x) % 256]'(Nat.mod_lt _ (by decide)))[(scy.toNat + y) % 256]'(Nat.mod_lt _ (by decide)) :=
  Grid.getElem_ofFn _ hx hy

end Sys2Proof.Machine
end

