-- ==== Sys2Proof/Proofs/TickFrames.lean ====
section
/-! SUPPORT. What a tick answers, by whether it renders, and O55 to O57; and O15, the frames of completed system steps
(50_graphics.md R200, R209, R211; 70_reset_and_hazards.md R270). -/

namespace Sys2Proof.Machine

/-! ## The tick -/

/-- The frame a tick emits is the viewport at the SCX and SCY cells, and none when SCY is last_scy. -/
theorem tick_frame_cells (s : State) :
    (tick s).2 =
      if s.lastScy = some (s.mem.byteAt 0xFF42) then none
      else some (viewport (compose s.mem) (s.mem.byteAt 0xFF43) (s.mem.byteAt 0xFF42)) :=
  tick_frame s

/-- After a tick last_scy is the SCY cell. -/
theorem tick_state_cells (s : State) : (tick s).1 = { s with lastScy := some (s.mem.byteAt 0xFF42) } :=
  tick_state s

/-- A tick renders exactly when SCY is not last_scy. -/
theorem tick_frame_isSome (s : State) : (tick s).2.isSome ↔ s.lastScy ≠ some (s.mem.byteAt 0xFF42) := by
  rw [tick_frame_cells]
  split <;> simp [*]

/-- Settles O55: the viewport's pixels, and the one frame a tick can emit. -/
theorem viewportWrapsOnBothAxes : Obligations.ViewportWrapsOnBothAxes := by
  refine ⟨fun bg scx scy x y hx hy => viewport_getElem bg scx scy hx hy, fun s f hf => ?_⟩
  rw [tick_frame_cells] at hf
  split at hf
  · cases hf
  · exact (Option.some.inj hf).symm

/-- Settles O56: writing the value last_scy already has changes nothing. -/
theorem tickRendersWhenScyChanges : Obligations.TickRendersWhenScyChanges := by
  intro s
  refine ⟨fun h => Prod.ext ?_ ?_, fun h => Prod.ext (tick_state_cells s) ?_⟩
  · rw [tick_state_cells, ← h]
  · rw [tick_frame_cells, if_pos h]
  · rw [tick_frame_cells, if_neg h]

/-- Settles O57: a tick's next state is a write of last_scy. -/
theorem graphicsWriteOnlyLastScy : Obligations.GraphicsWriteOnlyLastScy := by
  intro s
  rw [tick_state]

/-! ## The system step -/

/-- The driver's half of a step leaves the status as it finds it. -/
theorem afterStep_status (t : State) : (afterStep t).1.status = t.status := by
  rw [afterStep_state]

/-- A completed system step is a completed instruction and the tick after it. -/
theorem systemStep_completed {s t : State} {o : Output} (h : systemStep s = .next (t, o)) (ht : t.Running) :
    ∃ i u, exec i s = .next u ∧ u.Running ∧ t = (tick u).1 ∧ o.frame = (tick u).2 := by
  obtain ⟨_, ⟨x, _, hafter⟩ | ⟨i, u, _, hexec, hafter⟩⟩ := systemStep_cases h
  · have hstatus : t.status = (s.takeFault x).status :=
      (congrArg (·.1.status) hafter).trans (afterStep_status _)
    rw [ht, State.takeFault_status] at hstatus
    cases hstatus
  · have hu : u.Running := ((congrArg (·.1.status) hafter).trans (afterStep_status u)).symm.trans ht
    rw [afterStep_running hu] at hafter
    cases hafter
    exact ⟨i, u, hexec, hu, rfl, rfl⟩

/-- Settles O15: the instruction keeps last_scy, so the tick compares SCY with last_scy before the step; and the tick keeps
memory. -/
theorem framesFollowScy : Obligations.FramesFollowScy := by
  intro s t o h ht
  obtain ⟨i, u, hexec, -, rfl, hframe⟩ := systemStep_completed h ht
  obtain ⟨hscy, -⟩ := hiddenStateFrame i s u hexec
  rw [hframe, tick_frame_isSome, hscy, tick_state_cells]
  exact ⟨rfl, Iff.rfl⟩

end Sys2Proof.Machine
end

