-- ==== Sys2Proof/Proofs/DriverRun.lean ====
section
/-! SUPPORT. What a system step answers by the status it finds, and O13: a Running machine always steps; then what one host decision
does to a run, and O60: the hook and the pauses change neither its end nor its frames and reports (55_driver.md R231, R233,
R234, R236). -/

namespace Sys2Proof.Machine

/-! ## The system step -/

/-- The interpreter's step answers a next state, whether it executes an instruction or takes an exception of the fetch. -/
theorem interpret_next (s : State) : ∃ t, interpret s = .next t := by
  unfold interpret
  split
  · exact ⟨_, rfl⟩
  · exact exec_next _ s

/-- A Running machine always has a system step. -/
theorem systemStep_next {s : State} (hrun : s.Running) : ∃ t o, systemStep s = .next (t, o) := by
  obtain ⟨t, ht⟩ := interpret_next s
  exact ⟨(afterStep t).1, (afterStep t).2, by simp only [systemStep, hrun, ht]⟩

/-- A Faulted machine has no system step (60_exceptions.md R244). -/
theorem systemStep_halted {s : State} {r : FaultRecord} (h : s.status = .faulted r) : systemStep s = .fault (.halted r) := by
  simp only [systemStep, h]

/-- Settles O13: no part of a system step halts, the instruction's included. -/
theorem runningMachineAlwaysSteps : Obligations.RunningMachineAlwaysSteps := by
  refine ⟨fun s hrun => ?_, exec_next⟩
  obtain ⟨t, o, h⟩ := systemStep_next hrun
  exact ⟨t, step_of_systemStep h⟩

/-! ## The run -/

/-- A step's output holds no call of the hook. -/
theorem Output.events_filter_notHook (o : Output) : o.events.filter Claims.notHook = o.events := by
  obtain ⟨frame, report⟩ := o
  cases frame <;> cases report <;> rfl

/-- A run ends at once when the host shuts down. -/
theorem run_shutdown (hook : Bool) (rest : List HostDecision) (s : State) : run hook (.shutdown :: rest) s = (s, []) := rfl

/-- A pause only delays the step. -/
theorem run_pause (hook : Bool) (rest : List HostDecision) (s : State) : run hook (.pause :: rest) s = run hook rest s := rfl

/-- A run that goes on from a state with a system step: the hook's call, the step's events, then those of the rest. -/
theorem run_proceed_of_next (hook : Bool) (rest : List HostDecision) {s t : State} {o : Output}
    (h : systemStep s = .next (t, o)) :
    run hook (.proceed :: rest) s =
      ((run hook rest t).1, (if hook then [.hook s] else []) ++ o.events ++ (run hook rest t).2) := by
  simp only [run, h]

/-- A run that would go on from a Faulted state ends there, and hands over nothing more. -/
theorem run_proceed_of_faulted (hook : Bool) (rest : List HostDecision) {s : State} {r : FaultRecord}
    (h : s.status = .faulted r) : run hook (.proceed :: rest) s = (s, []) := by
  simp only [run, systemStep_halted h]

/-- Settles O60, by induction on the decisions: a pause is skipped by both runs, and a step's events are the same but for the
hook's call. -/
theorem hookAndPausesChangeNothing : Obligations.HookAndPausesChangeNothing := by
  intro decisions
  induction decisions with
  | nil => exact fun s => ⟨rfl, rfl⟩
  | cons decision rest ih =>
    intro s
    cases decision with
    | pause =>
      rw [List.filter_cons_of_neg (by decide), run_pause]
      exact ih s
    | shutdown =>
      rw [List.filter_cons_of_pos (by decide), run_shutdown, run_shutdown]
      exact ⟨rfl, rfl⟩
    | proceed =>
      rw [List.filter_cons_of_pos (by decide)]
      cases hstatus : s.status with
      | faulted r =>
        rw [run_proceed_of_faulted _ _ hstatus, run_proceed_of_faulted _ _ hstatus]
        exact ⟨rfl, rfl⟩
      | running =>
        obtain ⟨t, o, hstep⟩ := systemStep_next hstatus
        obtain ⟨hend, hevents⟩ := ih t
        rw [run_proceed_of_next _ _ hstep, run_proceed_of_next _ _ hstep]
        refine ⟨hend, ?_⟩
        simp [Claims.notHook, Output.events_filter_notHook, hevents]

end Sys2Proof.Machine
end

