-- ==== Sys2Proof/Proofs/UnsupportedOpcodes.lean ====
section
/-! SUPPORT. Why decoding fails: a byte that cannot be read, or an opcode that its map does not list; and O5, the opcodes the maps do
not list are those of 30_encoding.md R91 and R92 (60_exceptions.md R241, R243). -/

namespace Sys2Proof

/-! ## The failures of the decoder -/

section
variable {ε : Type} {u : Bool → Byte → ε} {read : Nat → Except ε Byte}

/-- A first byte that the primary map does not list fails the decoding, whatever follows. -/
theorem decodeFrom_error_of_primary {op : Byte} (h0 : read 0 = .ok op) (hop : op ≠ 0xCB) (hcell : primary op = none) :
    decodeFrom u read = .error (u false op) := by
  simp only [decodeFrom, h0, if_neg hop, hcell]

/-- A byte after 0xCB that the CB map does not list fails the decoding. -/
theorem decodeFrom_error_of_cb {op2 : Byte} (h0 : read 0 = .ok 0xCB) (h1 : read 1 = .ok op2) (hcell : cbTable op2 = none) :
    decodeFrom u read = .error (u true op2) := by
  simp only [decodeFrom, h0, if_true, h1, hcell]

/-- Everything a failure of the decoder can be: that of one of its reads, or an unsupported opcode of either map. -/
theorem decodeFrom_error_cases {x : ε} (h : decodeFrom u read = .error x) :
    (∃ k, read k = .error x) ∨
    (∃ op, read 0 = .ok op ∧ op ≠ 0xCB ∧ primary op = none ∧ x = u false op) ∨
    (∃ op2, read 0 = .ok 0xCB ∧ read 1 = .ok op2 ∧ cbTable op2 = none ∧ x = u true op2) := by
  unfold decodeFrom at h
  split at h
  · cases h
    exact .inl ⟨0, by assumption⟩
  rename_i op h0
  split at h
  · rename_i hop
    subst hop
    split at h
    · cases h
      exact .inl ⟨1, by assumption⟩
    rename_i op2 h1
    split at h <;> cases h
    exact .inr (.inr ⟨op2, h0, h1, by assumption, rfl⟩)
  rename_i hop
  split at h
  case h_1 hcell =>
    cases h
    exact .inr (.inl ⟨op, h0, hop, hcell, rfl⟩)
  case h_2 => cases h
  case h_3 | h_4 =>
    split at h <;> cases h
    exact .inl ⟨1, by assumption⟩
  case h_5 =>
    split at h
    · cases h
      exact .inl ⟨1, by assumption⟩
    split at h <;> cases h
    exact .inl ⟨2, by assumption⟩
end

/-- A list of bytes fails to decode exactly as the decoder fails on it. -/
theorem decode_eq_error_iff {bytes : List Byte} {x : DecodeError} :
    decode bytes = .error x ↔ decodeFrom .unsupported (listByte bytes) = .error x := by
  unfold decode
  split <;> simp [*]

/-- Reading from a list finds no opcode: it fails only for want of bytes. -/
theorem listByte_ne_unsupported (bytes : List Byte) (k : Nat) (p : Bool) (op : Byte) :
    listByte bytes k ≠ .error (.unsupported p op) := by
  unfold listByte
  split <;> simp

/-- A first byte other than 0xCB is unsupported exactly when the primary map does not list it. -/
theorem decode_unsupported_iff_primary {op : Byte} (hop : op ≠ 0xCB) (rest : List Byte) :
    decode (op :: rest) = .error (.unsupported false op) ↔ primary op = none := by
  rw [decode_eq_error_iff]
  refine ⟨fun h => ?_, decodeFrom_error_of_primary rfl hop⟩
  obtain ⟨k, hk⟩ | ⟨op', h0, -, hcell, -⟩ | ⟨_, _, _, _, hx⟩ := decodeFrom_error_cases h
  · exact absurd hk (listByte_ne_unsupported _ _ _ _)
  · cases h0
    exact hcell
  · cases hx

/-- A byte after 0xCB is unsupported exactly when the CB map does not list it. -/
theorem decode_unsupported_iff_cbTable (op2 : Byte) (rest : List Byte) :
    decode (0xCB :: op2 :: rest) = .error (.unsupported true op2) ↔ cbTable op2 = none := by
  rw [decode_eq_error_iff]
  refine ⟨fun h => ?_, decodeFrom_error_of_cb rfl rfl⟩
  obtain ⟨k, hk⟩ | ⟨_, _, _, _, hx⟩ | ⟨op2', -, h1, hcell, -⟩ := decodeFrom_error_cases h
  · exact absurd hk (listByte_ne_unsupported _ _ _ _)
  · cases hx
  · cases h1
    exact hcell

/-! ## The cells the maps leave out -/

/-- The dashes of the primary map, 0xCB's own cell aside. -/
def primaryDashes : List Nat :=
  (List.range 256).filter fun n => n != 0xCB && (primary (BitVec.ofNat 8 n)).isNone

/-- R91's list of unsupported bytes is that of the map's dashes, in order. -/
theorem unsupportedPrimary_eq_primaryDashes : Claims.unsupportedPrimary = primaryDashes := by
  decide

/-- The primary map lists no byte of R91's unsupported list, and every other but 0xCB. -/
theorem mem_unsupportedPrimary_iff (op : Byte) :
    op.toNat ∈ Claims.unsupportedPrimary ↔ op ≠ 0xCB ∧ primary op = none := by
  have hlt : op.toNat < 256 := op.isLt
  have hne : op.toNat ≠ 0xCB ↔ op ≠ 0xCB := not_congr (BitVec.toNat_inj (y := 0xCB#8))
  simp [unsupportedPrimary_eq_primaryDashes, primaryDashes, hlt, hne]

/-- The CB map row by row: its dashes are the bytes outside R92's list. -/
theorem cbTable_isNone_iff_of_nibbles :
    ∀ row < 16, ∀ column < 16, (cbTable (BitVec.ofNat 8 (16 * row + column))).isNone ↔
      ¬ Claims.admittedCB (16 * row + column) := by
  unfold Claims.admittedCB
  decide

/-- The CB map lists exactly the bytes R92 admits. -/
theorem cbTable_eq_none_iff (op2 : Byte) : cbTable op2 = none ↔ ¬ Claims.admittedCB op2.toNat := by
  have hcell := cbTable_isNone_iff_of_nibbles (op2.toNat / 16) (Nat.div_lt_of_lt_mul op2.isLt) (op2.toNat % 16)
    (Nat.mod_lt _ (by decide))
  rwa [Nat.div_add_mod, BitVec.ofNat_toNat, BitVec.setWidth_eq, Option.isNone_iff_eq_none] at hcell

end Sys2Proof

namespace Sys2Proof.Machine

/-! ## The fetch at PC -/

/-- The first byte has an address in either EDGE_MODE: it is PC. -/
theorem fetchByte_zero (s : State) : s.fetchByte 0 = .ok (s.memRead s.pc) :=
  fetchByte_ok s 0 (by decide) (.inr s.pc.isLt)

/-- Settles O5: the map that the opcode is looked up in has no cell for it, so the fetch raises and the step takes that. -/
theorem unsupportedOpcodeFaults : Obligations.UnsupportedOpcodeFaults := by
  refine ⟨fun s hrun hmem => ?_, fun s hrun hcb hfit hop2 => ?_, fun op rest hop => ?_, fun op2 rest => ?_⟩
  · obtain ⟨hop, hcell⟩ := (mem_unsupportedPrimary_iff _).1 hmem
    exact step_of_fetch_error hrun (decodeFrom_error_of_primary (fetchByte_zero s) hop hcell)
  · have h0 : s.fetchByte 0 = .ok 0xCB := hcb ▸ fetchByte_zero s
    have h1 : s.fetchByte 1 = .ok (s.memRead (s.pc + 1)) := fetchByte_ok s 1 (by decide) hfit
    exact step_of_fetch_error hrun (decodeFrom_error_of_cb h0 h1 ((cbTable_eq_none_iff _).2 hop2))
  · rw [decode_unsupported_iff_primary hop, mem_unsupportedPrimary_iff, and_iff_right hop]
  · rw [decode_unsupported_iff_cbTable, cbTable_eq_none_iff]

end Sys2Proof.Machine
end

