-- ==== Sys2Proof/Proofs/Faults.lean ====
section
/-! SUPPORT. What a system step that ends Faulted has done: it took an exception in the state before it and reported the record; O8 and
O10, and with them the Faulted machine's stop and the record's fields, O7 and O9 (60_exceptions.md R242 to R246). -/

namespace Sys2Proof.Machine

/-! ## A step that faults -/

/-- Everything a system step that ends Faulted can be: an exception taken in the state before it, raised by the fetch or, in
EDGE_MODE = fault, by the instruction; its record is reported, and no frame. -/
theorem systemStep_faulted {s t : State} {o : Output} {r : FaultRecord} (h : systemStep s = .next (t, o))
    (ht : t.status = .faulted r) :
    ∃ x, t = s.takeFault x ∧ r = s.faultRecord x ∧ o = { frame := none, report := some r } ∧
      (s.fetch = .error x ∨ s.cfg.edgeMode = .fault) := by
  suffices hfault : ∃ x, (t, o) = afterStep (s.takeFault x) ∧ (s.fetch = .error x ∨ s.cfg.edgeMode = .fault) by
    obtain ⟨x, hafter, hraised⟩ := hfault
    rw [afterStep_faulted (State.takeFault_status s x)] at hafter
    cases hafter
    cases ht
    exact ⟨x, rfl, rfl, rfl, hraised⟩
  obtain ⟨hrun, ⟨x, hfetch, hafter⟩ | ⟨i, u, -, hexec, hafter⟩⟩ := systemStep_cases h
  · exact ⟨x, hafter, .inl hfetch⟩
  · obtain ⟨-, heffect⟩ | ⟨hmode, v, rfl⟩ := exec_cases i s u hexec
    · obtain ⟨-, hstatus, -⟩ := formEffect_hidden heffect
      have htu : t.status = u.status := (congrArg (·.1.status) hafter).trans (afterStep_status u)
      have htrun : t.Running := htu.trans (hstatus.trans hrun)
      cases ht.symm.trans htrun
    · exact ⟨_, hafter, .inr hmode⟩

/-- Settles O8: taking an exception writes the status alone, and the record it writes agrees with the state. -/
theorem faultsArePrecise : Obligations.FaultsArePrecise := by
  intro s t o r h ht
  obtain ⟨x, rfl, rfl, ho, -⟩ := systemStep_faulted h ht
  exact ⟨rfl, s.recordAgrees_faultRecord x, ho⟩

/-! ## EDGE_MODE = wrap -/

/-- A byte that cannot be fetched has no address, so EDGE_MODE = fault. -/
theorem fetchByte_mode_of_error {s : State} {k : Nat} {x : Raised} (h : s.fetchByte k = .error x) :
    s.cfg.edgeMode = .fault := by
  unfold State.fetchByte at h
  split at h
  · exact State.addr_error (by assumption)
  · cases h

/-- In EDGE_MODE = wrap a fetch raises nothing but UnsupportedOpcode. -/
theorem fetch_error_of_wrap {s : State} {x : Raised} (hwrap : s.cfg.edgeMode = .wrap) (h : s.fetch = .error x) :
    ∃ p op, x = .unsupportedOpcode p op := by
  obtain ⟨k, hk⟩ | ⟨op, -, -, -, hx⟩ | ⟨op2, -, -, -, hx⟩ := decodeFrom_error_cases h
  · cases hwrap.symm.trans (fetchByte_mode_of_error hk)
  · exact ⟨false, op, hx⟩
  · exact ⟨true, op2, hx⟩

/-- Settles O10: in wrap mode only the fetch raises, and only an unsupported opcode. -/
theorem wrapModeTakesNoEdgeFault : Obligations.WrapModeTakesNoEdgeFault := by
  intro s t r _ hwrap h ht
  obtain ⟨o, ho⟩ := systemStep_of_step h
  obtain ⟨x, -, rfl, -, hfetch | hfault⟩ := systemStep_faulted ho ht
  · obtain ⟨p, op, rfl⟩ := fetch_error_of_wrap hwrap hfetch
    exact ⟨rfl, rfl⟩
  · cases hwrap.symm.trans hfault

/-! ## The Faulted machine and its record -/

/-- Settles O7: the system step halts before the interpreter runs. -/
theorem faultedMachineStops : Obligations.FaultedMachineStops := by
  intro s r h
  have hhalt := systemStep_halted h
  exact ⟨by simp only [step, hhalt], hhalt⟩

/-- The window's bytes, one by one. -/
theorem State.faultWindow_getElem? {s : State} (address : Word) {k : Nat} (hk : k < s.cfg.dumpWindow) :
    (s.faultWindow address)[k]? =
      some (s.memRead (BitVec.ofInt 16 ((address.toNat : Int) - (s.cfg.dumpWindow / 2 : Nat) + (k : Int)))) := by
  simp only [State.faultWindow, List.getElem?_map, List.getElem?_range hk, Option.map_some]

/-- Settles O9: the fields are those of the record made in the state, and the window is read byte by byte. -/
theorem faultRecordFields : Obligations.FaultRecordFields := by
  intro s x r h
  obtain rfl : s.faultRecord x = r := Status.faulted.inj h
  refine ⟨rfl, rfl, rfl, rfl, rfl, rfl, rfl, ?_, ?_, ?_, fun k hk => s.faultWindow_getElem? s.pc hk⟩
  · rintro p op rfl
    exact ⟨rfl, rfl, rfl, rfl⟩
  · rintro v rfl
    exact ⟨rfl, rfl, rfl, rfl⟩
  · exact (List.length_map _).trans List.length_range

end Sys2Proof.Machine
end

