-- ==== Sys2Proof/Proofs/Load.lean ====
section
/-! SUPPORT. The load: what every cell holds once the loader has put a list of bytes, and then the two images, in place, and when
the load fails; O59 (70_reset_and_hazards.md R260 to R263, 60_exceptions.md R245). -/

namespace Sys2Proof.Machine

/-! ## Placed bytes -/

/-- Each placed byte stands in its own cell, and every other cell is as before. -/
theorem Memory.byteAt_place (bytes : List Byte) (m : Memory) (start k : Nat) :
    (m.place start bytes).byteAt k =
      if start ≤ k ∧ k < start + bytes.length then bytes.getD (k - start) 0 else m.byteAt k := by
  induction bytes generalizing m start with
  | nil => exact (if_neg (by simp only [List.length_nil]; omega)).symm
  | cons v rest ih =>
    rw [Memory.place, ih, Memory.byteAt_setByte]
    obtain hlt | rfl | hgt := Nat.lt_trichotomy k start
    · rw [if_neg (by omega), if_neg (by omega), if_neg (by omega)]
    · simp
    · obtain ⟨j, rfl⟩ := Nat.exists_eq_add_of_lt hgt
      have hrest : start + j + 1 - (start + 1) = j := by omega
      have hcons : start + j + 1 - start = j + 1 := by omega
      rw [if_neg (by omega : start + j + 1 ≠ start), hrest, hcons, List.getD_cons_succ, List.length_cons]
      exact if_congr (by omega) rfl rfl

/-- The images' cells: the cartridge over the boot image over what stood there (R260 to R262). -/
theorem byteAt_placeImages (m : Memory) (boot cart : List Byte) (k : Nat) :
    (placeImages m boot cart).byteAt k =
      if 0x100 ≤ k ∧ k < cart.length then cart.getD k 0
      else if k < boot.length then boot.getD k 0
      else m.byteAt k := by
  rw [placeImages, Memory.byteAt_place, Memory.byteAt_place]
  have hend : 0x100 ≤ k ∧ k < 0x100 + (cart.drop 0x100).length ↔ 0x100 ≤ k ∧ k < cart.length := by
    rw [List.length_drop]
    omega
  simp only [hend, Nat.zero_le, true_and, Nat.zero_add, Nat.sub_zero]
  split
  next hcart => rw [List.getD_eq_getElem?_getD, List.getElem?_drop, Nat.add_sub_cancel' hcart.1, List.getD_eq_getElem?_getD]
  next => rfl

/-! ## The outcome of a load -/

/-- Two images that fit load. -/
theorem load_of_fits (p : LoadParams) {boot cart : List Byte} (hboot : boot.length ≤ imageLimit)
    (hcart : cart.length ≤ imageLimit) : load p (some boot) (some cart) = .ready (loadedState p boot cart) :=
  if_neg (not_or.2 ⟨hboot.not_gt, hcart.not_gt⟩)

/-- A load with a missing boot image fails, whatever the cartridge. -/
theorem load_none_boot (p : LoadParams) (cart : Option (List Byte)) :
    load p none cart = .failed { kind := .loadFailure } := rfl

/-- A load with a missing cartridge image fails, whatever the boot image. -/
theorem load_none_cart (p : LoadParams) (boot : Option (List Byte)) :
    load p boot none = .failed { kind := .loadFailure } := by
  cases boot <;> rfl

/-- A load with an image too long fails. -/
theorem load_of_oversize (p : LoadParams) {boot cart : List Byte} (h : boot.length > imageLimit ∨ cart.length > imageLimit) :
    load p (some boot) (some cart) = .failed { kind := .loadFailure } :=
  if_pos h

/-- Settles O59: the loaded state's fields are the given ones, and its memory is the placed images'. -/
theorem loadPlacesTheImages : Obligations.LoadPlacesTheImages := by
  refine ⟨fun p boot cart hboot hcart => ?_, fun p boot cart hbad => ?_⟩
  · exact ⟨loadedState p boot cart, load_of_fits p hboot hcart, rfl, rfl, rfl, rfl, rfl, rfl, rfl,
      fun k _ => byteAt_placeImages p.mem0 boot cart k⟩
  · obtain rfl | rfl | ⟨b, rfl, hlong⟩ | ⟨c, rfl, hlong⟩ := hbad
    · exact load_none_boot p cart
    · exact load_none_cart p boot
    · cases cart with
      | none => exact load_none_cart p (some b)
      | some c => exact load_of_oversize p (.inl hlong)
    · cases boot with
      | none => exact load_none_boot p (some c)
      | some b => exact load_of_oversize p (.inr hlong)

end Sys2Proof.Machine
end
